-- ==== Sys2Proof/Word.lean ====
section
/-! DEFINITION. The word types of the host port and the plain pair form of a polynomial (spec R7, R8, R10). -/

namespace Sys2Proof

/-- A host word: 32 bits, bit `i` of weight `2^i` (R5, R8, R54). -/
abbrev Word := BitVec 32

/-- What a POLY register stores: bits [20:0] of a POLY word (R20, R71). -/
abbrev PolyReg := BitVec 21

/-- The index of a host register: 3 bits (R5, R50). -/
abbrev RegIndex := BitVec 3

/-- A polynomial over Z/2Z as the pair `(len, val)` of R7: `len` is the length of the coefficient sequence,
bit `i` of `val` is the coefficient of `x^i`. A well-formed pair has `val < 2^len`. -/
structure BinPoly where
  len : Nat
  val : Nat
  deriving DecidableEq, Repr

/-- The empty sequence `[]`, the trimmed zero polynomial (R6, R7). -/
def BinPoly.empty : BinPoly := ⟨0, 0⟩

/-- The constant polynomial `[1]` (R130). -/
def BinPoly.one : BinPoly := ⟨1, 1⟩

end Sys2Proof
end

