-- ==== Sys2Proof/Syntax.lean ====
section
/-! DEFINITION. The command set: one constructor per row of the opcode map (R76, spec/opcode_table.json). A command
carries no immediate, register number or mode field (R80), so no constructor has an argument. -/

namespace Sys2Proof

/-- The rows of the opcode map R76. The nine commands, and the seven reserved opcodes, whose words are IllegalCommand
(R78). A word with a bit of [31:4] set is the meaning of no row: `Decode` rejects it by name. -/
inductive Instr where
  /-- PDEG: degree and zero test (R110). -/
  | pdeg
  /-- PTRIM: trim (R111). -/
  | ptrim
  /-- PADD: polynomial add (R112). -/
  | padd
  /-- PMUL: raw carry-less multiply (R113). -/
  | pmul
  /-- PRED: long division (R114). -/
  | pred
  /-- FNEW: construct a field element (R140). -/
  | fnew
  /-- FADD: field addition (R141). -/
  | fadd
  /-- FMUL: field multiplication (R142). -/
  | fmul
  /-- FINV: multiplicative inverse (R160). -/
  | finv
  /-- Reserved OPC 0x0 (R76, R78). -/
  | reservedOpc0
  /-- Reserved OPC 0x6 (R76, R78). -/
  | reservedOpc6
  /-- Reserved OPC 0x7 (R76, R78). -/
  | reservedOpc7
  /-- Reserved OPC 0xC (R76, R78). -/
  | reservedOpcC
  /-- Reserved OPC 0xD (R76, R78). -/
  | reservedOpcD
  /-- Reserved OPC 0xE (R76, R78). -/
  | reservedOpcE
  /-- Reserved OPC 0xF (R76, R78). -/
  | reservedOpcF
  deriving DecidableEq, Repr

end Sys2Proof
end

