-- ==== Sys2Proof/Decode.lean ====
section
/-! DEFINITION. Decoding of a command word (R75 to R81), total on every word and rejecting by name, and the encoder of
R76 after it. -/

namespace Sys2Proof

/-- Why a word is no row of the opcode map. The completion step answers each with IllegalCommand (R78). -/
inductive DecodeReject where
  /-- A bit of MBZ [31:4] is set (R75, R78). Safe: R78 gives the word's whole effect. -/
  | mustBeZero (mbz : BitVec 28)
  /-- OPC is in no row of R76. It cannot happen, since the rows cover all 16 values of OPC. -/
  | noRow (opc : BitVec 4)
  deriving DecidableEq, Repr

/-- `c[3:0]`, the field OPC (R75). -/
def opcField (c : Word) : BitVec 4 := c.extractLsb' 0 4

/-- `c[31:4]`, the field MBZ (R75). -/
def mbzField (c : Word) : BitVec 28 := c.extractLsb' 4 28

/-- The row of R76 with this OPC. -/
def decodeOpc (opc : BitVec 4) : Except DecodeReject Instr :=
  match opc.toNat with
  | 0x0 => .ok .reservedOpc0
  | 0x1 => .ok .pdeg
  | 0x2 => .ok .ptrim
  | 0x3 => .ok .padd
  | 0x4 => .ok .pmul
  | 0x5 => .ok .pred
  | 0x6 => .ok .reservedOpc6
  | 0x7 => .ok .reservedOpc7
  | 0x8 => .ok .fnew
  | 0x9 => .ok .fadd
  | 0xA => .ok .fmul
  | 0xB => .ok .finv
  | 0xC => .ok .reservedOpcC
  | 0xD => .ok .reservedOpcD
  | 0xE => .ok .reservedOpcE
  | 0xF => .ok .reservedOpcF
  | _ => .error (.noRow opc)

/-- `decode(c)` of R77. A reserved OPC decodes to its own row of the table; a word with MBZ set is rejected. Both are
ILLEGAL in R77's sense (`isIllegal`; log entry 10). -/
def decode (c : Word) : Except DecodeReject Instr :=
  if mbzField c ≠ 0 then .error (.mustBeZero (mbzField c)) else decodeOpc (opcField c)

/-- Whether a row of the table is one of the seven reserved opcodes (R76). -/
def Instr.isReserved : Instr → Bool
  | .pdeg => false
  | .ptrim => false
  | .padd => false
  | .pmul => false
  | .pred => false
  | .fnew => false
  | .fadd => false
  | .fmul => false
  | .finv => false
  | .reservedOpc0 => true
  | .reservedOpc6 => true
  | .reservedOpc7 => true
  | .reservedOpcC => true
  | .reservedOpcD => true
  | .reservedOpcE => true
  | .reservedOpcF => true

/-- `decode(c) = ILLEGAL` of R77. -/
def isIllegal (c : Word) : Bool :=
  match decode c with
  | .ok i => i.isReserved
  | .error _ => true

/-- The whole CMD word of a row: column "Word" of R76. -/
def encode : Instr → Word
  | .reservedOpc0 => 0x00000000#32
  | .pdeg => 0x00000001#32
  | .ptrim => 0x00000002#32
  | .padd => 0x00000003#32
  | .pmul => 0x00000004#32
  | .pred => 0x00000005#32
  | .reservedOpc6 => 0x00000006#32
  | .reservedOpc7 => 0x00000007#32
  | .fnew => 0x00000008#32
  | .fadd => 0x00000009#32
  | .fmul => 0x0000000A#32
  | .finv => 0x0000000B#32
  | .reservedOpcC => 0x0000000C#32
  | .reservedOpcD => 0x0000000D#32
  | .reservedOpcE => 0x0000000E#32
  | .reservedOpcF => 0x0000000F#32

/-- The command word whose bits are the low `nbits` bits of `w`. The host port moves whole words, so no byte order enters
(R54). A number that needs more than 32 bits is no command word (R70, R81). -/
def tableWord (nbits w : Nat) : Option Word :=
  if w % 2 ^ nbits < 2 ^ 32 then some (BitVec.ofNat 32 (w % 2 ^ nbits)) else none

/-- The instruction the decoder reads from an instruction whose bits are `w`. -/
def decodeTableWord (nbits w : Nat) : Option Instr :=
  match tableWord nbits w with
  | none => none
  | some c =>
    match decode c with
    | .ok i => some i
    | .error _ => none

end Sys2Proof
end

