-- ==== Sys2Proof/Machine/Errors.lean ====
section
/-! DEFINITION. The errors of the core and the codes STATUS.ECODE takes for them (R171). -/

namespace Sys2Proof.Machine

/-- The errors a command can raise (R171). -/
inductive ErrCode where
  /-- The command word names no operation (R177). -/
  | illegalCommand
  /-- An operand the command reads fails its check (R172). -/
  | invalidOperand
  /-- FNEW's operand is longer than K (R173). -/
  | invalidLength
  /-- The divisor of reduce is zero by value (R174). -/
  | divisionByZero
  /-- FINV's operand is the zero element (R175). -/
  | noInverse
  /-- PMUL's result is longer than a POLY register (R176). -/
  | overflow
  deriving DecidableEq, Repr

/-- The document's other name for DivisionByZero (R174). -/
def ErrCode.undefinedDegree : ErrCode := .divisionByZero

/-- `code(c)` of R179: the value of ECODE (R171). 0 is None and 7 is never written. -/
def ErrCode.code : ErrCode → BitVec 3
  | .illegalCommand => 1
  | .invalidOperand => 2
  | .invalidLength => 3
  | .divisionByZero => 4
  | .noInverse => 5
  | .overflow => 6

end Sys2Proof.Machine
end

