-- ==== Sys2Proof/Machine/Poly.lean ====
section
/-! DEFINITION. The polynomial primitives as pure functions (R6, R7, R100 to R105): the trim/degree unit, the XOR-tree
adder, the carry-less multiplier and the long-division unit. -/

namespace Sys2Proof

/-- `hibit(v)` of R9: the position of the highest set bit of `v > 0`. R9 leaves `hibit(0)` without a value; here it is 0 (DESIGN
CHOICE, log entry 15), and no result depends on it. -/
def hibit (v : Nat) : Nat := v.log2

/-- `seq(len, val)` of R7: the MSB-first coefficient sequence. Where `val ≥ 2^len`, which is no pair of R7, the coefficients at
and above `len` are left out (DESIGN CHOICE, log entry 15). -/
def BinPoly.toSeq (p : BinPoly) : List Bool := (List.range p.len).map fun j => p.val.testBit (p.len - 1 - j)

/-- `pair(s)` of R7: the pair of an MSB-first coefficient sequence. -/
def BinPoly.ofSeq : List Bool → BinPoly
  | [] => .empty
  | b :: s => ⟨s.length + 1, (if b then 2 ^ s.length else 0) + (BinPoly.ofSeq s).val⟩

/-- `isZero` of R100. -/
def BinPoly.isZero (p : BinPoly) : Bool := p.val == 0

/-- `degree` of R101; `none` is the sentinel NONE. -/
def BinPoly.degree (p : BinPoly) : Option Nat := if p.isZero then none else some (hibit p.val)

/-- `trim` of R102. -/
def BinPoly.trim (p : BinPoly) : BinPoly := if p.isZero then .empty else ⟨hibit p.val + 1, p.val⟩

/-- `add` of R103. -/
def BinPoly.add (a b : BinPoly) : BinPoly := ⟨max a.len b.len, a.val ^^^ b.val⟩

/-- The part of `clmul(x, y)` (R104) that bits `n-1` down to 0 of `x` give: XOR of the `y << e` with `bit(x, e) = 1`. -/
def clmulBelow (x y : Nat) : Nat → Nat
  | 0 => 0
  | n + 1 => clmulBelow x y n ^^^ (if x.testBit n then y <<< n else 0)

/-- `clmul(x, y)` of R104. No bit of `x` is set above `hibit x`. -/
def clmul (x y : Nat) : Nat := clmulBelow x y (hibit x + 1)

/-- `multiply` of R104. -/
def BinPoly.multiply (a b : BinPoly) : BinPoly :=
  if a.len = 0 ∨ b.len = 0 then .empty else ⟨a.len + b.len - 1, clmul a.val b.val⟩

/-- The loop of `reduce` (R105) on `(q, r)`, at most `fuel` times. Each pass clears the top bit of `r`, so a fuel of
`hibit r + 1` never runs out before the loop's own end (DEDUCED, log entry 11). -/
def divLoop (dm mt : Nat) : Nat → Nat × Nat → Nat × Nat
  | 0, qr => qr
  | fuel + 1, (q, r) =>
    if r ≠ 0 ∧ dm ≤ hibit r then
      divLoop dm mt fuel (q ||| (1 <<< (hibit r - dm)), r ^^^ (mt <<< (hibit r - dm)))
    else (q, r)

/-- `reduce` of R105: quotient, trimmed, and remainder, with the dividend's length. A divisor that is zero by value raises
DivisionByZero before any other step (R106). -/
def BinPoly.reduce (p m : BinPoly) : Except Machine.ErrCode (BinPoly × BinPoly) :=
  if m.isZero then .error .divisionByZero
  else
    let qr := divLoop (hibit m.val) m.trim.val (hibit p.val + 1) (0, p.val)
    .ok ((BinPoly.mk 0 qr.1).trim, ⟨p.len, qr.2⟩)

end Sys2Proof
end

