-- ==== Sys2Proof/Machine/HostSyntax.lean ====
section
/-! DEFINITION. The host notation of R82 as data: what the host agent of R13 runs. Its meaning is in
Machine/HostAgent.lean. -/

namespace Sys2Proof.Machine

/-- `REG` of R82: a named host register, or `#n` for index `n`. -/
inductive HostReg where
  | opa
  | opb
  | cmd
  | res0
  | res1
  | status
  | index (n : RegIndex)
  deriving DecidableEq, Repr

/-- The value of a `wr` statement: a literal word, or `last`, the word most recently read by `rd` (R82). -/
inductive HostValue where
  | word (w : Word)
  | last
  deriving DecidableEq, Repr

/-- The statements of R82. A label is a number; `label` names the statement after it. -/
inductive HostStmt where
  | wr (reg : HostReg) (value : HostValue)
  | rd (reg : HostReg)
  | label (name : Nat)
  | jbit (bit : Fin 32) (target : Nat)
  | jmp (target : Nat)
  | halt
  | reset
  deriving DecidableEq, Repr

end Sys2Proof.Machine
end

