-- ==== Sys2Proof/Machine/State.lean ====
section
/-! DEFINITION. The state of the machine, as plain data: the core's registers and hidden state (R20), the host agent
(R13, R82), and whose turn it is (R27, R59). The core has no memory and no program counter (R37, R50), so there is no
field for either (log entry 8). -/

namespace Sys2Proof.Machine

/-- The fields of STATUS (R26). Bits [31:17] have no storage (R35). -/
structure Status where
  /-- [0]: a command is accepted and not yet complete (R27). -/
  busy : Bool
  /-- [1]: the last completed command ended in an error (R28). -/
  err : Bool
  /-- [4:2]: the error code of the last completed command (R29). -/
  ecode : BitVec 3
  /-- [5]: RES0 is the zero polynomial (R30). -/
  z : Bool
  /-- [6]: RES0 has a degree (R31). -/
  degv : Bool
  /-- [11:7]: the degree of RES0, 0 when DEGV = 0 (R32). -/
  deg : BitVec 5
  /-- [15:12]: inversion-engine steps of the last successful command (R33). -/
  iter : BitVec 4
  /-- [16]: a CMD write was dropped since the last accepted command (R34). -/
  lost : Bool
  deriving DecidableEq, Repr

/-- The hidden latch `L = (LCMD, LA, LB)`, written only at acceptance and read only by the completion step (R38). -/
structure Latch where
  cmd : Word
  la : PolyReg
  lb : PolyReg
  deriving DecidableEq, Repr

/-- The inversion engine's hidden state `(r_prev, r_cur, s_prev, s_cur, n)` (R39, R150). -/
structure Engine where
  rPrev : BinPoly
  rCur : BinPoly
  sPrev : BinPoly
  sCur : BinPoly
  n : Nat
  deriving DecidableEq, Repr

/-- The host agent (R13) running a program in the notation of R82. The MODEL's own: it is no state of the core. -/
structure HostAgent where
  /-- The program's statements. -/
  prog : List HostStmt
  /-- The statement the host takes next. Past the end, the program has ended. -/
  pos : Nat
  /-- `last` of R82: the word most recently read. -/
  last : Word
  /-- The trace of R82: the words read, in order. -/
  trace : List Word
  deriving DecidableEq, Repr

/-- Who takes a step: the host makes its next statement, the core takes its completion step (R13), or the reset input is
asserted (R200). -/
inductive Turn where
  | host
  | core
  | reset
  deriving DecidableEq, Repr

/-- The whole machine. -/
structure State where
  /-- OPA, first operand, host index 0 (R22). -/
  opa : PolyReg
  /-- OPB, second operand, host index 1 (R23). -/
  opb : PolyReg
  /-- RES0, primary result, host index 3 (R24). -/
  res0 : PolyReg
  /-- RES1, secondary result, host index 4 (R25). -/
  res1 : PolyReg
  /-- STATUS, host index 5 (R26). -/
  status : Status
  /-- The hidden latch (R38). -/
  latch : Latch
  /-- The hidden inversion engine (R39). -/
  engine : Engine
  /-- The host agent (R13, R82): the model's own. -/
  host : HostAgent
  /-- The turns to come, oldest first: the model's own, and the open choice of R207 (how many host accesses come between
  acceptance and completion) as plain data. When it is empty, the core moves while BUSY = 1 and the host otherwise (DESIGN
  CHOICE, log entry 5). -/
  sched : List Turn
  deriving DecidableEq, Repr

/-- The machine never stops with a fault: no access faults (R58), and an error of a command is a status outcome, not a trap
(R170). So the type has no constructor (DEDUCED, log entry 13). -/
inductive Fault where
  deriving DecidableEq, Repr

/-- Why a step is refused. -/
inductive Refusal where
  /-- An instruction without a meaning, named as the opcode table names it; raised by no arm of `exec`. Safe. -/
  | notModelled (mnemonic : String)
  deriving DecidableEq, Repr

/-- STATUS after reset: 0x00000020 (R26, R41). -/
def Status.reset : Status :=
  { busy := false, err := false, ecode := 0, z := true, degv := false, deg := 0, iter := 0, lost := false }

/-- The latch after reset. R201 leaves it open, and allows any value. DESIGN CHOICE (log entry 1): zero. -/
def Latch.reset : Latch := { cmd := 0, la := 0, lb := 0 }

/-- The engine after reset. R201 leaves it open, and allows any value. DESIGN CHOICE (log entry 2): empty polynomials. -/
def Engine.reset : Engine := { rPrev := .empty, rCur := .empty, sPrev := .empty, sCur := .empty, n := 0 }

/-- A host with no program, which has read nothing. DESIGN CHOICE (log entry 3): `last` starts at zero. -/
def HostAgent.idle : HostAgent := { prog := [], pos := 0, last := 0, trace := [] }

/-- The machine right after reset (R41, R200), with an idle host and no turn chosen. -/
def State.reset : State :=
  { opa := 0, opb := 0, res0 := 0, res1 := 0, status := .reset, latch := .reset, engine := .reset,
    host := .idle, sched := [] }

end Sys2Proof.Machine
end

