-- ==== Sys2Proof/Machine/Flags.lean ====
section
/-! DEFINITION. The trim/degree unit's flag output (R108), and STATUS as the word the host reads (R26). -/

namespace Sys2Proof

/-- `flags(P).Z` (R108, R30). -/
def BinPoly.flagZ (p : BinPoly) : Bool := p.isZero

/-- `flags(P).DEGV` (R108, R31). -/
def BinPoly.flagDegv (p : BinPoly) : Bool := !p.isZero

/-- `flags(P).DEG` (R108, R32). -/
def BinPoly.flagDeg (p : BinPoly) : BitVec 5 := BitVec.ofNat 5 (p.degree.getD 0)

namespace Machine

/-- The STATUS word (R26): bits [31:17] read as 0 (R35). -/
def Status.toWord (st : Status) : Word :=
  0#15 ++ BitVec.ofBool st.lost ++ st.iter ++ st.deg ++ BitVec.ofBool st.degv ++ BitVec.ofBool st.z ++ st.ecode ++
    BitVec.ofBool st.err ++ BitVec.ofBool st.busy

end Machine

end Sys2Proof
end

