-- ==== Sys2Proof/Config.lean ====
section
/-! DEFINITION. The implementation parameters of R5, and the open parameter the model carries. -/

namespace Sys2Proof.Config

/-- `K`, the extension degree: the longest coefficient sequence of a field element (R5). -/
def K : Nat := 8

/-- `PW`, how many coefficients a POLY register holds (R5). -/
def PW : Nat := 16

/-- `MOD = x^8 + x^4 + x^3 + x + 1`, a wired constant that no host access reads or writes (R5, R40). -/
def MOD : BinPoly := ⟨9, 0x11B⟩

/-- `CORE_BASE_ADDRESS`, OPEN (R57, D40): where a byte-addressed host places the core. No rule of the core reads it, so it
has no value here. -/
opaque coreBaseAddress : Nat

end Sys2Proof.Config
end

