-- ==== Sys2Proof/Machine/Operands.lean ====
section
/-! DEFINITION. The POLY format and the checks on operands (R71 to R73, R79, R80). -/

namespace Sys2Proof

/-- The pair `(w[20:16], w[15:0])` that a POLY word denotes (R71, R80). -/
def PolyReg.toPoly (w : PolyReg) : BinPoly := ⟨(w.extractLsb' 16 5).toNat, (w.extractLsb' 0 16).toNat⟩

/-- The POLY word of a pair: LEN in [20:16], COEF in [15:0] (R71). R71 gives it for `len ≤ 16` only; of a pair that the fields do
not hold, each field keeps its low bits (DESIGN CHOICE, log entry 15). No command's result is such a pair (R10, R74). -/
def BinPoly.toReg (p : BinPoly) : PolyReg := BitVec.ofNat 5 p.len ++ BitVec.ofNat 16 p.val

/-- `wf(P)` of R72. -/
def BinPoly.wf (p : BinPoly) : Bool := decide (p.len ≤ Config.PW) && (p.val >>> p.len == 0)

/-- The length of the trimmed form of a value: `if v = 0 then 0 else hibit(v) + 1` (R42, R73). -/
def trimmedLen (v : Nat) : Nat := if v = 0 then 0 else hibit v + 1

/-- `canon8(P)` of R73: the value is a field element (R42). -/
def BinPoly.canon8 (p : BinPoly) : Bool :=
  p.wf && decide (p.len ≤ Config.K) && (p.len == trimmedLen p.val)

namespace Machine

/-- `A = L.LA`, decoded by R71: the latched OPA. -/
def State.operandA (s : State) : BinPoly := PolyReg.toPoly s.latch.la

/-- `B = L.LB`, decoded by R71: the latched OPB. -/
def State.operandB (s : State) : BinPoly := PolyReg.toPoly s.latch.lb

end Machine

end Sys2Proof
end

