-- ==== Sys2Proof/Machine/Ops.lean ====
section
/-! DEFINITION. The shared operations on the state: the two ways a command completes, the host-port accesses, reset, and
the choice of whose turn it is. The core has no exception entry and no return from one (R170, R180): the error tail
`raiseError` is all there is of either. -/

namespace Sys2Proof.Machine

/-- `success(res0, res1, iter)` of section 2 of 40_primitives.md: the completion of a command without error. LOST is
unchanged (R34). -/
def success (res0 res1 : BinPoly) (iter : Nat) (s : State) : State :=
  { s with
    res0 := res0.toReg
    res1 := res1.toReg
    status :=
      { busy := false, err := false, ecode := 0, z := res0.flagZ, degv := res0.flagDegv, deg := res0.flagDeg,
        iter := BitVec.ofNat 4 iter, lost := s.status.lost } }

/-- `raise Error(c)`, the error tail of R179: it writes ERR, ECODE and BUSY and nothing else. -/
def raiseError (c : ErrCode) (s : State) : State :=
  { s with status := { s.status with err := true, ecode := c.code, busy := false } }

/-- The engine's registers hold `e` (R39). -/
def State.setEngine (s : State) (e : Engine) : State := { s with engine := e }

/-- Acceptance of a command word (R52, index 2 with BUSY = 0): the word and both operands are latched (R38), BUSY is set
and LOST is cleared. -/
def acceptCommand (data : Word) (s : State) : State :=
  { s with
    latch := { cmd := data, la := s.opa, lb := s.opb }
    status := { s.status with busy := true, lost := false } }

/-- A CMD write dropped because BUSY = 1: LOST is set and nothing else changes (R52, R34). -/
def dropCommand (s : State) : State := { s with status := { s.status with lost := true } }

/-- `HostWrite(idx, data)` of R52. Indices 3 to 7 ignore writes (R51). -/
def hostWrite (idx : RegIndex) (data : Word) (s : State) : State :=
  match idx.toNat with
  | 0 => { s with opa := data.extractLsb' 0 21 }
  | 1 => { s with opb := data.extractLsb' 0 21 }
  | 2 => if s.status.busy then dropCommand s else acceptCommand data s
  | _ => s

/-- `HostRead(idx)` of R53: the column "Read returns" of R51. It is a function of the state and changes none. -/
def hostRead (idx : RegIndex) (s : State) : Word :=
  match idx.toNat with
  | 0 => s.opa.setWidth 32
  | 1 => s.opb.setWidth 32
  | 3 => s.res0.setWidth 32
  | 4 => s.res1.setWidth 32
  | 5 => s.status.toWord
  | _ => 0

/-- The reset event (R200): every element of the core takes its reset value, and a command in flight is discarded (R202).
The host agent and the turns to come are not the core's, and stay; the hidden latch and engine, which R201 leaves open, take the
values of `State.reset` (DESIGN CHOICE, log entry 7). -/
def resetEvent (s : State) : State := { State.reset with host := s.host, sched := s.sched }

/-- Whose turn it is: the first of the turns to come. When none is left, the core completes a command in flight (the weak
fairness of R207) and the host moves otherwise (DESIGN CHOICE, log entry 5). -/
def State.currentTurn (s : State) : Turn :=
  match s.sched with
  | t :: _ => t
  | [] => if s.status.busy then .core else .host

/-- The turn has been taken. -/
def State.popTurn (s : State) : State := { s with sched := s.sched.tail }

/-- The core moves next. -/
def State.pushCore (s : State) : State := { s with sched := .core :: s.sched }

/-- The byte offset of index `i` behind a byte-addressed host adaptor (R51, R55). -/
def byteOffset (idx : RegIndex) : Nat := 4 * idx.toNat

/-- The address at which such an adaptor shows index `i` (R55, R57). -/
def hostAddress (idx : RegIndex) : Nat := Config.coreBaseAddress + byteOffset idx

end Sys2Proof.Machine
end

