-- ==== Sys2Proof/Machine/Field.lean ====
section
/-! DEFINITION. The field-element operations (R130 to R133) and their commands (R140 to R142). -/

namespace Sys2Proof

/-- `construct` of R131: the bound K is on the length of the sequence, before trimming. -/
def BinPoly.construct (p : BinPoly) : Except Machine.ErrCode BinPoly :=
  if p.len > Config.K then .error .invalidLength else .ok p.trim

/-- `fadd` of R132. -/
def BinPoly.fadd (a b : BinPoly) : BinPoly := (a.add b).trim

/-- `fmul` of R133: the remainder of the raw product modulo MOD, trimmed. -/
def BinPoly.fmul (a b : BinPoly) : Except Machine.ErrCode BinPoly :=
  match (a.multiply b).reduce Config.MOD with
  | .error c => .error c
  | .ok (_, r) => .ok r.trim

namespace Machine

/-- FNEW (R140): InvalidLength is checked before well-formedness. -/
def execFnew (s : State) : Host.Outcome State Fault Refusal :=
  match s.operandA.construct with
  | .error c => .next (raiseError c s)
  | .ok e => if !s.operandA.wf then .next (raiseError .invalidOperand s) else .next (success e .empty 0 s)

/-- FADD (R141). -/
def execFadd (s : State) : Host.Outcome State Fault Refusal :=
  if !s.operandA.canon8 then .next (raiseError .invalidOperand s)
  else if !s.operandB.canon8 then .next (raiseError .invalidOperand s)
  else .next (success (s.operandA.fadd s.operandB) .empty 0 s)

/-- FMUL (R142). The error arm passes on what `reduce` raises; R142 says that it raises nothing here. -/
def execFmul (s : State) : Host.Outcome State Fault Refusal :=
  if !s.operandA.canon8 then .next (raiseError .invalidOperand s)
  else if !s.operandB.canon8 then .next (raiseError .invalidOperand s)
  else
    match s.operandA.fmul s.operandB with
    | .error c => .next (raiseError c s)
    | .ok p => .next (success p .empty 0 s)

end Machine

end Sys2Proof
end

