-- ==== Sys2Proof/Machine/Inverse.lean ====
section
/-! DEFINITION. The extended Euclidean inversion engine (R150 to R157) and its command FINV (R160). -/

namespace Sys2Proof.Machine

/-- What one step of the engine answers (R152): DONE with the coefficient and the count, or the next engine state. -/
inductive EngineOut where
  | done (s : BinPoly) (n : Nat)
  | cont (e : Engine)
  deriving DecidableEq, Repr

/-- `E0(a)` of R151. -/
def Engine.init (a : BinPoly) : Engine :=
  { rPrev := a, rCur := Config.MOD, sPrev := .one, sCur := .empty, n := 0 }

/-- `step(E)` of R152. The error is that of `reduce`; R152 says that the engine never meets it. -/
def Engine.step (e : Engine) : Except ErrCode EngineOut :=
  match e.rPrev.reduce e.rCur with
  | .error c => .error c
  | .ok (q, rNext) =>
    if rNext.isZero then .ok (.done e.sCur (e.n + 1))
    else .ok (.cont { rPrev := e.rCur, rCur := rNext, sPrev := e.sCur,
                      sCur := e.sPrev.add (q.multiply e.sCur), n := e.n + 1 })

/-- The engine state whose step answers DONE, reached by at most `fuel` steps that answer CONT. The degree of `r_cur` falls
with each of them (R155), so a fuel of `hibit(r_cur)` never runs out before DONE (DEDUCED, log entry 11). -/
def Engine.run : Nat → Engine → Except ErrCode Engine
  | 0, e => .ok e
  | fuel + 1, e =>
    match e.step with
    | .error c => .error c
    | .ok (.done _ _) => .ok e
    | .ok (.cont e') => Engine.run fuel e'

/-- The run of the engine on the element `a`, from `E0(a)` to the state whose step answers DONE (R152). -/
def Engine.runOn (a : BinPoly) : Except ErrCode Engine := Engine.run (hibit Config.MOD.val) (Engine.init a)

/-- The inverse, read off the state whose step answers DONE: `trim(s_cur)` (R153). -/
def Engine.result (e : Engine) : BinPoly := e.sCur.trim

/-- The count at DONE, which counts the last step too (R155). -/
def Engine.steps (e : Engine) : Nat := e.n + 1

/-- FINV (R160). The engine registers keep the state whose step answered DONE: R39 leaves open what they hold outside the
completion step, and allows any value (DESIGN CHOICE, log entry 2). -/
def execFinv (s : State) : Host.Outcome State Fault Refusal :=
  if !s.operandA.canon8 then .next (raiseError .invalidOperand s)
  else if s.operandA.isZero then .next (raiseError .noInverse s)
  else
    match Engine.runOn s.operandA with
    | .error c => .next (raiseError c s)
    | .ok e => .next (success e.result .empty e.steps (s.setEngine e))

end Sys2Proof.Machine
end

