-- ==== Sys2Proof/Machine/Primitives.lean ====
section
/-! DEFINITION. The commands of the polynomial primitives (R110 to R114). The order of the checks is that of R178. -/

namespace Sys2Proof.Machine

/-- PDEG (R110): the operand unchanged; its degree and zero test are the flags. -/
def execPdeg (s : State) : Host.Outcome State Fault Refusal :=
  if !s.operandA.wf then .next (raiseError .invalidOperand s)
  else .next (success s.operandA .empty 0 s)

/-- PTRIM (R111). -/
def execPtrim (s : State) : Host.Outcome State Fault Refusal :=
  if !s.operandA.wf then .next (raiseError .invalidOperand s)
  else .next (success s.operandA.trim .empty 0 s)

/-- PADD (R112). -/
def execPadd (s : State) : Host.Outcome State Fault Refusal :=
  if !s.operandA.wf then .next (raiseError .invalidOperand s)
  else if !s.operandB.wf then .next (raiseError .invalidOperand s)
  else .next (success (s.operandA.add s.operandB) .empty 0 s)

/-- PMUL (R113): Overflow is a test on lengths, not on values. -/
def execPmul (s : State) : Host.Outcome State Fault Refusal :=
  if !s.operandA.wf then .next (raiseError .invalidOperand s)
  else if !s.operandB.wf then .next (raiseError .invalidOperand s)
  else if 0 < s.operandA.len ∧ 0 < s.operandB.len ∧ s.operandA.len + s.operandB.len - 1 > Config.PW then
    .next (raiseError .overflow s)
  else .next (success (s.operandA.multiply s.operandB) .empty 0 s)

/-- PRED (R114). -/
def execPred (s : State) : Host.Outcome State Fault Refusal :=
  if !s.operandA.wf then .next (raiseError .invalidOperand s)
  else if !s.operandB.wf then .next (raiseError .invalidOperand s)
  else
    match s.operandA.reduce s.operandB with
    | .error c => .next (raiseError c s)
    | .ok (q, r) => .next (success q r 0 s)

end Sys2Proof.Machine
end

