-- ==== Sys2Proof/Machine/Reserved.lean ====
section
/-! DEFINITION. The reserved opcodes (R76, R78): each completes with IllegalCommand and reads no operand. -/

namespace Sys2Proof.Machine

/-- The effect R78 gives every word that decodes to ILLEGAL. -/
def illegalCommand (s : State) : Host.Outcome State Fault Refusal := .next (raiseError .illegalCommand s)

/-- Reserved OPC 0x0 (R76, R78). -/
def execReservedOpc0 (s : State) : Host.Outcome State Fault Refusal := illegalCommand s

/-- Reserved OPC 0x6 (R76, R78). -/
def execReservedOpc6 (s : State) : Host.Outcome State Fault Refusal := illegalCommand s

/-- Reserved OPC 0x7 (R76, R78). -/
def execReservedOpc7 (s : State) : Host.Outcome State Fault Refusal := illegalCommand s

/-- Reserved OPC 0xC (R76, R78). -/
def execReservedOpcC (s : State) : Host.Outcome State Fault Refusal := illegalCommand s

/-- Reserved OPC 0xD (R76, R78). -/
def execReservedOpcD (s : State) : Host.Outcome State Fault Refusal := illegalCommand s

/-- Reserved OPC 0xE (R76, R78). -/
def execReservedOpcE (s : State) : Host.Outcome State Fault Refusal := illegalCommand s

/-- Reserved OPC 0xF (R76, R78). -/
def execReservedOpcF (s : State) : Host.Outcome State Fault Refusal := illegalCommand s

end Sys2Proof.Machine
end

