-- ==== Sys2Proof/Machine/Dispatch.lean ====
section
/-! DEFINITION. The completion of each command on the latched operands, one arm per row of the opcode table. -/

namespace Sys2Proof.Machine

def exec (i : Instr) (s : State) : Host.Outcome State Fault Refusal :=
  match i with
  | .pdeg => Sys2Proof.Machine.execPdeg s
  | .ptrim => Sys2Proof.Machine.execPtrim s
  | .padd => Sys2Proof.Machine.execPadd s
  | .pmul => Sys2Proof.Machine.execPmul s
  | .pred => Sys2Proof.Machine.execPred s
  | .fnew => Sys2Proof.Machine.execFnew s
  | .fadd => Sys2Proof.Machine.execFadd s
  | .fmul => Sys2Proof.Machine.execFmul s
  | .finv => Sys2Proof.Machine.execFinv s
  | .reservedOpc0 => Sys2Proof.Machine.execReservedOpc0 s
  | .reservedOpc6 => Sys2Proof.Machine.execReservedOpc6 s
  | .reservedOpc7 => Sys2Proof.Machine.execReservedOpc7 s
  | .reservedOpcC => Sys2Proof.Machine.execReservedOpcC s
  | .reservedOpcD => Sys2Proof.Machine.execReservedOpcD s
  | .reservedOpcE => Sys2Proof.Machine.execReservedOpcE s
  | .reservedOpcF => Sys2Proof.Machine.execReservedOpcF s

end Sys2Proof.Machine
end

