-- ==== Sys2Proof/Machine/Completion.lean ====
section
/-! DEFINITION. The core's completion step (R27). -/

namespace Sys2Proof.Machine

/-- The completion step: enabled exactly when BUSY = 1, it decodes the latched word (R75) and completes the command in one
transition. A word that decoding rejects is IllegalCommand (R78). While BUSY = 0 the core is idle (R189). -/
def completionStep (s : State) : Host.Outcome State Fault Refusal :=
  if s.status.busy then
    match decode s.latch.cmd with
    | .ok i => exec i s
    | .error _ => .next (raiseError .illegalCommand s)
  else .next s

end Sys2Proof.Machine
end

