-- ==== Sys2Proof/Machine/HostAgent.lean ====
section
/-! DEFINITION. The host agent (R13): the statements of R82 over the host port, the literals of R82, the pseudo-instructions
of R83, and `display` (R135). -/

namespace Sys2Proof

/-- The literal `poly(len, coef)` of R82: `(len << 16) | coef`. R82 gives no meaning to a literal that needs more than 32 bits;
the model keeps its low 32 bits (DESIGN CHOICE, log entry 14). -/
def litPoly (len coef : Nat) : Word := BitVec.ofNat 32 (len <<< 16 ||| coef)

/-- The literal `seq[c0,...]` of R82: `POLY(seq)` of R71, which R71 gives for sequences of length `n ≤ 16`. To a longer one the
model applies the same formula, so that coefficients of `x^16` and above are ORed into the field LEN and what stands above
bit 31 is cut (DESIGN CHOICE, log entry 14). -/
def litSeq (s : List Bool) : Word := litPoly (BinPoly.ofSeq s).len (BinPoly.ofSeq s).val

/-- The literal `fe(v)` of R82: the canonical field element of value `v`. -/
def litFe (v : BitVec 8) : Word := litPoly (trimmedLen v.toNat) v.toNat

/-- The monomials of `display` (R135) for the coefficients below `x^n`, highest degree first. -/
def displayTerms (val : Nat) : Nat → List String
  | 0 => []
  | i + 1 =>
    if val.testBit i then (if i = 0 then "1" else "x^" ++ toString i) :: displayTerms val i else displayTerms val i

/-- `display(e)` of R135: a host-side function, used to read values. -/
def BinPoly.display (e : BinPoly) : String :=
  match e.degree with
  | none => "0"
  | some d => String.intercalate " + " (displayTerms e.val (d + 1))

namespace Machine

/-- `index(REG)` of R82. -/
def HostReg.toIndex : HostReg → RegIndex
  | .opa => 0
  | .opb => 1
  | .cmd => 2
  | .res0 => 3
  | .res1 => 4
  | .status => 5
  | .index n => n

/-- The word a `wr` statement writes. -/
def HostValue.eval (h : HostAgent) : HostValue → Word
  | .word w => w
  | .last => h.last

/-- The host continues at the next statement. -/
def HostAgent.advance (h : HostAgent) : HostAgent := { h with pos := h.pos + 1 }

/-- The word read is appended to the trace and becomes `last` (R82). -/
def HostAgent.record (w : Word) (h : HostAgent) : HostAgent := { h with last := w, trace := h.trace ++ [w] }

/-- The host continues at the place of a label (R82). A label no statement declares ends the program (DESIGN CHOICE, log
entry 4); `hostProgramWellFormed` rules it out. -/
def HostAgent.goto (l : Nat) (h : HostAgent) : HostAgent :=
  { h with pos := (h.prog.findIdx? (· == HostStmt.label l)).getD h.prog.length }

/-- The host agent of the state is replaced. -/
def State.setHost (s : State) (h : HostAgent) : State := { s with host := h }

/-- The statement the host takes next, if its program has not ended. -/
def State.currentStmt (s : State) : Option HostStmt := s.host.prog[s.host.pos]?

/-- One turn of the host: the statement at `pos` (R82). `wr` and `rd` are one access of the host port each (R52, R53),
`reset` is the reset event (R200); the others are control inside the host. A host whose program has ended, or that
stands at `halt`, does nothing (log entry 12). -/
def hostTurn (s : State) : State :=
  match s.currentStmt with
  | none => s
  | some (.wr r v) => hostWrite r.toIndex (v.eval s.host) (s.setHost s.host.advance)
  | some (.rd r) => s.setHost (s.host.record (hostRead r.toIndex s)).advance
  | some (.label _) => s.setHost s.host.advance
  | some (.jbit n l) => s.setHost (if s.host.last.getLsbD n then s.host.goto l else s.host.advance)
  | some (.jmp l) => s.setHost (s.host.goto l)
  | some .halt => s
  | some .reset => resetEvent (s.setHost s.host.advance)

/-- A command as a pseudo-instruction: `wr CMD, <word of R76>` (R83). -/
def pseudoCommand (i : Instr) : List HostStmt := [.wr .cmd (.word (encode i))]

/-- `wait` (R83), with the fresh label `l`. -/
def pseudoWait (l : Nat) : List HostStmt := [.label l, .rd .status, .jbit 0 l]

/-- `run op, A, B` (R83). -/
def pseudoRun (op : Instr) (a b : HostValue) (l : Nat) : List HostStmt :=
  [.wr .opa a, .wr .opb b] ++ pseudoCommand op ++ pseudoWait l ++ [.rd .res0, .rd .res1]

/-- `run1 op, A` (R83). -/
def pseudoRun1 (op : Instr) (a : HostValue) (l : Nat) : List HostStmt :=
  [.wr .opa a] ++ pseudoCommand op ++ pseudoWait l ++ [.rd .res0]

end Machine

end Sys2Proof
end

