-- ==== Sys2Proof/Machine/Step.lean ====
section
/-! DEFINITION. One step of the machine: the turn of one agent (R13), or the reset input (R200). -/

namespace Sys2Proof.Machine

/-- One step: whoever's turn it is moves. -/
def step (s : State) : Host.Outcome State Fault Refusal :=
  match s.currentTurn with
  | .core => completionStep s.popTurn
  | .host => .next (hostTurn s.popTurn)
  | .reset => .next (resetEvent s.popTurn)

/-- `s` right after the host's accepted write of the command word (R52), with the core to move next, so that the next step
is that command's completion (log entry 6). A number that is no command word leaves `s` as it is. -/
def State.withFetchWord (s : State) (nbits w : Nat) : State :=
  match tableWord nbits w with
  | none => s
  | some c => (acceptCommand c s).pushCore

end Sys2Proof.Machine
end

