-- ==== Sys2Proof/Safety.lean ====
section
/-! DEFINITION. What a sound state is, and the terms the statements are written in. -/

namespace Sys2Proof

/-- `p` is a pair in the sense of R7: no bit of its value stands at or above its length. -/
abbrev BinPoly.Pair (p : BinPoly) : Prop := p.val < 2 ^ p.len

/-- `p` is a pair in the sense of R7 that `n` coefficients hold. -/
abbrev BinPoly.Fits (n : Nat) (p : BinPoly) : Prop := p.len ≤ n ∧ p.val < 2 ^ p.len

/-- The sequence has no leading zero coefficient: it is its own `trim` (R102). -/
abbrev BinPoly.Trimmed (p : BinPoly) : Prop := p.trim = p

/-- `x ≡ y (mod MOD)` on polynomial values: they differ by a multiple of MOD. -/
def congMod (x y : Nat) : Prop := ∃ q, x ^^^ y = clmul q Config.MOD.val

/-- `a` and `m` divide with quotient `q` and remainder `r` in the sense of R105: the division identity, the bound on the
remainder, and the lengths of both. -/
abbrev BinPoly.DividesTo (a m q r : BinPoly) : Prop :=
  a.val = clmul q.val m.val ^^^ r.val ∧ (r.val = 0 ∨ hibit r.val < hibit m.val) ∧ q.Trimmed ∧ r.len = a.len

/-- Bit `k` of a carry-less product, as R104 gives it: the XOR over `i + j = k` of `bit(x, i) AND bit(y, j)`. -/
def productBit (x y k : Nat) : Bool :=
  (List.range (k + 1)).foldl (fun acc i => acc ^^ (x.testBit i && y.testBit (k - i))) false

/-- The field element of value `v < 256` (R42). -/
def fieldElement (v : Nat) : BinPoly := ⟨trimmedLen v, v⟩

/-- `p` is one of the 256 field elements (R42). -/
def BinPoly.IsElement (p : BinPoly) : Prop := ∃ v, v < 256 ∧ p = fieldElement v

namespace Machine

/-- STATUS.Z, DEGV and DEG are the flags of RES0 (R30 to R32, R108). -/
abbrev State.flagsMatch (s : State) : Prop :=
  s.status.z = (PolyReg.toPoly s.res0).flagZ ∧ s.status.degv = (PolyReg.toPoly s.res0).flagDegv ∧
    s.status.deg = (PolyReg.toPoly s.res0).flagDeg

/-- ERR and ECODE tell the same story: ECODE is 0 exactly without error, and 7 is never written (R28, R29). -/
abbrev Status.errorMatch (st : Status) : Prop := (st.err = false ↔ st.ecode = 0) ∧ st.ecode ≠ 7

/-- The engine's polynomials fit its 9 coefficients (R157), and its count has not passed the bound of R155. -/
abbrev Engine.Sized (e : Engine) : Prop :=
  e.rPrev.Fits 9 ∧ e.rCur.Fits 9 ∧ e.sPrev.Fits 9 ∧ e.sCur.Fits 9 ∧ e.n ≤ 8

/-- Invariant 1 of R156 for the element `a`, with what it rests on: the coefficients are pairs, `r_cur` is nonzero, and
`s_prev * a ≡ r_prev`, `s_cur * a ≡ r_cur (mod MOD)`. -/
structure Engine.Bezout (a : BinPoly) (e : Engine) : Prop where
  sPrev_pair : e.sPrev.Pair
  sCur_pair : e.sCur.Pair
  rCur_nonzero : e.rCur.val ≠ 0
  prev : congMod (clmul e.sPrev.val a.val) e.rPrev.val
  cur : congMod (clmul e.sCur.val a.val) e.rCur.val

/-- The number of engine steps FINV takes on the element of value `v` (R155), 0 where the engine raises. -/
def stepsOf (v : Nat) : Nat :=
  match Engine.runOn (fieldElement v) with
  | .ok e => e.steps
  | .error _ => 0

/-- What every step keeps: results are well-formed POLY values (R74), the flags are those of RES0 (R108), ERR and ECODE agree
(R28, R29), ITER is 0 or a count 2..9 and then RES0 is a nonzero field element and RES1 is `[]` (R25, R33), and the engine is
within its widths (R157). -/
structure State.Inv (s : State) : Prop where
  res0_wf : (PolyReg.toPoly s.res0).wf = true
  res1_wf : (PolyReg.toPoly s.res1).wf = true
  flags : s.flagsMatch
  error : s.status.errorMatch
  iter : s.status.iter = 0 ∨
    (2 ≤ s.status.iter.toNat ∧ s.status.iter.toNat ≤ 9 ∧ (PolyReg.toPoly s.res0).canon8 = true ∧
      (PolyReg.toPoly s.res0).isZero = false ∧ s.res1 = 0)
  engine : s.engine.Sized

/-- A safe outcome: the machine goes on. It has no fault (R58, R170), and no instruction is refused. -/
def GoesOn (o : Host.Outcome State Fault Refusal) : Prop := ∃ t, o = .next t

/-- The step is the core's completion of a command in flight (R27). -/
abbrev State.completes (s : State) : Prop := s.currentTurn = .core ∧ s.status.busy = true

/-- The step is a write by the host to index `idx` of the word `w` (R52). -/
def State.writes (s : State) (idx : RegIndex) (w : Word) : Prop :=
  s.currentTurn = .host ∧ ∃ r v, s.currentStmt = some (.wr r v) ∧ r.toIndex = idx ∧ v.eval s.host = w

/-- The step is the reset event: the reset input, or the host's `reset` statement (R200). -/
abbrev State.resets (s : State) : Prop :=
  s.currentTurn = .reset ∨ (s.currentTurn = .host ∧ s.currentStmt = some .reset)

/-- A completion without error that leaves RES0 = `r0`, RES1 = `r1`, ITER = `iter` and the flags `z`, `degv`, `deg`: all that
`success` of 40_primitives.md writes, field by field. -/
def State.completedWith (s : State) (r0 r1 : PolyReg) (z degv : Bool) (deg : BitVec 5) (iter : BitVec 4) : State :=
  { s with
    res0 := r0
    res1 := r1
    status := { busy := false, err := false, ecode := 0, z := z, degv := degv, deg := deg, iter := iter,
                lost := s.status.lost } }

/-- A completion without error of `r0`, `r1` and `iter`: the flags are those R30 to R32 give for `r0`. -/
def State.completedFor (s : State) (r0 r1 : BinPoly) (iter : Nat) : State :=
  s.completedWith r0.toReg r1.toReg (decide (r0.val = 0)) (decide (r0.val ≠ 0))
    (BitVec.ofNat 5 (if r0.val = 0 then 0 else hibit r0.val)) (BitVec.ofNat 4 iter)

/-- A completion with error code `code`: all that R179 writes. -/
def State.failedWith (s : State) (code : BitVec 3) : State :=
  { s with status := { s.status with err := true, ecode := code, busy := false } }

/-- A host access that is not a CMD write: reads, and writes to any other index (R51). -/
inductive HostAccess where
  | read (idx : RegIndex)
  | write (idx : RegIndex) (data : Word) (notCmd : idx ≠ 2)

/-- The state after one such access (R52, R53). -/
def HostAccess.apply (a : HostAccess) (s : State) : State :=
  match a with
  | .read _ => s
  | .write idx data _ => hostWrite idx data s

/-- The state after a list of such accesses, the first of the list first (R59). -/
def applyAccesses (as : List HostAccess) (s : State) : State := as.foldl (fun t a => a.apply t) s

end Machine

end Sys2Proof
end

