-- ==== Sys2Proof/Certificates/Slice0/Obligations.lean ====
section
/-! DEFINITION. The statements for the provers, from the numbered rules of spec/. An equation of whole states also says that a
step which the spec does not have write the hidden engine leaves its registers as they are: R39 leaves them open there, and
that they stay is the model's choice (log entry 2). -/

open Sys2Proof Sys2Proof.Machine

/-! ## Encodings -/

/-- R76: a few words of the opcode map, written out, decode to their rows. That a reserved OPC decodes to a row of its own, where
R77 answers ILLEGAL, is the model's form of the table (log entry 10). -/
def Obligations.ListedWordsDecodeToTheirRows : Prop :=
  decode 0b00000000000000000000000000000001#32 = .ok .pdeg ∧
  decode 0b00000000000000000000000000000101#32 = .ok .pred ∧
  decode 0b00000000000000000000000000001000#32 = .ok .fnew ∧
  decode 0b00000000000000000000000000001010#32 = .ok .fmul ∧
  decode 0b00000000000000000000000000001011#32 = .ok .finv ∧
  decode 0b00000000000000000000000000000110#32 = .ok .reservedOpc6

/-- R77: a word with a bit of [31:4] set is ILLEGAL; the sixteen values of OPC decode as listed, seven of them ILLEGAL; and
exactly nine words are legal. -/
def Obligations.DecodingIsTotalAndNineWordsAreLegal : Prop :=
  (∀ c : Word, c.extractLsb' 4 28 ≠ 0 → isIllegal c = true) ∧
  (decode 0x1#32 = .ok .pdeg ∧ decode 0x2#32 = .ok .ptrim ∧ decode 0x3#32 = .ok .padd ∧ decode 0x4#32 = .ok .pmul ∧
    decode 0x5#32 = .ok .pred ∧ decode 0x8#32 = .ok .fnew ∧ decode 0x9#32 = .ok .fadd ∧ decode 0xA#32 = .ok .fmul ∧
    decode 0xB#32 = .ok .finv) ∧
  (∀ c ∈ [0x0#32, 0x6#32, 0x7#32, 0xC#32, 0xD#32, 0xE#32, 0xF#32], isIllegal c = true) ∧
  (∀ c : Word, isIllegal c = false ↔
    c ∈ [0x1#32, 0x2#32, 0x3#32, 0x4#32, 0x5#32, 0x8#32, 0x9#32, 0xA#32, 0xB#32])

/-- R76, R77, R81: the decoder accepts exactly the encoder's words, each as the instruction it encodes. For the nine commands
that is R77; that the words of the seven reserved OPCs, ILLEGAL in R77, are accepted too, each as a row of its own, is the
model's form of the table (log entry 10). -/
def Obligations.DecodeAndEncodeAgree : Prop :=
  ∀ (c : Word) (i : Instr), decode c = .ok i ↔ c = encode i

/-- R71: the fields of a POLY word, and the two conversions undo each other on what a register and a pair can hold. -/
def Obligations.PolyWordHoldsAPair : Prop :=
  (∀ w : PolyReg, (PolyReg.toPoly w).toReg = w) ∧
  (∀ p : BinPoly, p.len < 32 → p.val < 2 ^ 16 → PolyReg.toPoly p.toReg = p) ∧
  (∀ (w : PolyReg) (i : Nat), i < 16 → (PolyReg.toPoly w).val.testBit i = w.getLsbD i) ∧
  (∀ (w : PolyReg) (i : Nat), i < 5 → (PolyReg.toPoly w).len.testBit i = w.getLsbD (16 + i))

/-- R7: sequences and pairs correspond one to one. -/
def Obligations.SequencesAndPairsCorrespond : Prop :=
  (∀ p : BinPoly, p.Pair → BinPoly.ofSeq p.toSeq = p) ∧
  (∀ s : List Bool, (BinPoly.ofSeq s).toSeq = s ∧ (BinPoly.ofSeq s).Pair)

/-- R42, R73: the canonical field operands are exactly the 256 field elements. -/
def Obligations.CanonicalOperandsAreFieldElements : Prop :=
  ∀ p : BinPoly, p.canon8 = true ↔ p.IsElement

/-! ## Reset, the host port and the turns -/

/-- R41: the registers and STATUS after reset, and what a host reads of them at each index. -/
def Obligations.ResetLeavesTheListedValues : Prop :=
  State.reset.opa = 0 ∧ State.reset.opb = 0 ∧ State.reset.res0 = 0 ∧ State.reset.res1 = 0 ∧
  State.reset.status = { busy := false, err := false, ecode := 0, z := true, degv := false, deg := 0, iter := 0,
                         lost := false } ∧
  ∀ idx : RegIndex, hostRead idx State.reset = if idx = 5 then 0x00000020#32 else 0#32

/-- R200, R202: the reset event puts the core into its reset state from any state, a command in flight included; the host
goes on (with its next statement, where the event was its own). That the host and the turns to come outlive a reset of the
core is the model's choice (log entry 7). -/
def Obligations.ResetEventDiscardsTheCommand : Prop :=
  ∀ s : State, s.resets →
    ∃ t, step s = .next t ∧ t.opa = 0 ∧ t.opb = 0 ∧ t.res0 = 0 ∧ t.res1 = 0 ∧ t.status.toWord = 0x00000020#32 ∧
      t.status.busy = false ∧ t.sched = s.sched.tail ∧
      (s.currentTurn = .reset → t.host = s.host) ∧
      (s.currentTurn = .host → t.host = { s.host with pos := s.host.pos + 1 })

/-- R26, R35: where each field stands in the STATUS word; bits [31:17] read as 0; a host write to it does nothing. -/
def Obligations.StatusWordHasTheLayoutOfR26 : Prop :=
  ∀ (s : State) (d : Word),
    let w := hostRead 5 s
    w.getLsbD 0 = s.status.busy ∧ w.getLsbD 1 = s.status.err ∧ w.extractLsb' 2 3 = s.status.ecode ∧
    w.getLsbD 5 = s.status.z ∧ w.getLsbD 6 = s.status.degv ∧ w.extractLsb' 7 5 = s.status.deg ∧
    w.extractLsb' 12 4 = s.status.iter ∧ w.getLsbD 16 = s.status.lost ∧ w.extractLsb' 17 15 = 0 ∧ hostWrite 5 d s = s

/-- R51, R53: what each index returns to a read, and its byte offset. (What a write does: R52, below.) -/
def Obligations.ReadsReturnTheRegisterMap : Prop :=
  (∀ s : State,
    hostRead 0 s = s.opa.setWidth 32 ∧ hostRead 1 s = s.opb.setWidth 32 ∧ hostRead 2 s = 0 ∧
    hostRead 3 s = s.res0.setWidth 32 ∧ hostRead 4 s = s.res1.setWidth 32 ∧ hostRead 5 s = s.status.toWord ∧
    hostRead 6 s = 0 ∧ hostRead 7 s = 0) ∧
  ∀ idx : RegIndex, byteOffset idx = 4 * idx.toNat

/-- R52: the four cases of a host write. -/
def Obligations.HostWriteFollowsR52 : Prop :=
  ∀ (s : State) (d : Word),
    hostWrite 0 d s = { s with opa := d.extractLsb' 0 21 } ∧
    hostWrite 1 d s = { s with opb := d.extractLsb' 0 21 } ∧
    (s.status.busy = false →
      hostWrite 2 d s = { s with latch := { cmd := d, la := s.opa, lb := s.opb }
                                 status := { s.status with busy := true, lost := false } }) ∧
    (s.status.busy = true → hostWrite 2 d s = { s with status := { s.status with lost := true } }) ∧
    ∀ idx : RegIndex, 3 ≤ idx.toNat → hostWrite idx d s = s

/-- R22, R23, R56: an operand register reads back bits [20:0] of the last write, whatever they are, and a second equal write
changes nothing. -/
def Obligations.OperandWritesReadBackAndRepeat : Prop :=
  ∀ (s : State) (d : Word),
    hostRead 0 (hostWrite 0 d s) = d &&& 0x001FFFFF#32 ∧ hostRead 1 (hostWrite 1 d s) = d &&& 0x001FFFFF#32 ∧
    hostRead 1 (hostWrite 0 d s) = hostRead 1 s ∧ hostRead 0 (hostWrite 1 d s) = hostRead 0 s ∧
    hostWrite 0 d (hostWrite 0 d s) = hostWrite 0 d s ∧ hostWrite 1 d (hostWrite 1 d s) = hostWrite 1 d s

/-- R27, R75: on the core's turn with BUSY = 1, a step runs the instruction the latched word decodes to. All that the step
adds is that the turn is taken from the turns to come, which are the model's own (log entry 5). -/
def Obligations.CoreTurnRunsTheDecodedCommand : Prop :=
  ∀ (s : State) (i : Instr), s.completes → decode s.latch.cmd = .ok i →
    step s = exec i { s with sched := s.sched.tail }

/-- R52, R76: a word of the opcode map, accepted as a CMD write with the core to move next, runs as its instruction on the
operands latched with it. (That `withFetchWord` is this acceptance is the model's choice, log entry 6.) -/
def Obligations.AcceptedWordRunsNext : Prop :=
  ∀ (s : State) (i : Instr),
    step (s.withFetchWord 32 (encode i).toNat) =
      exec i { s with latch := { cmd := encode i, la := s.opa, lb := s.opb }
                      status := { s.status with busy := true, lost := false } }

/-- R27, R189: on the core's turn with BUSY = 0 nothing happens, but that the turn is taken (the model's own, log entry 5). -/
def Obligations.IdleCoreDoesNothing : Prop :=
  ∀ s : State, s.currentTurn = .core → s.status.busy = false → step s = .next { s with sched := s.sched.tail }

/-- R82: what each statement of the host notation does on the host's turn. That each takes one turn, that a host which has
ended stays where it is, and that a label means its first declaration, are the model's choices (log entries 4, 5 and 12). -/
def Obligations.HostStatementsFollowR82 : Prop :=
  ∀ (s : State), s.currentTurn = .host →
    let u : State := { s with sched := s.sched.tail }
    let next : HostAgent := { s.host with pos := s.host.pos + 1 }
    (∀ r w, s.currentStmt = some (.wr r (.word w)) → step s = .next (hostWrite r.toIndex w { u with host := next })) ∧
    (∀ r, s.currentStmt = some (.wr r .last) → step s = .next (hostWrite r.toIndex s.host.last { u with host := next })) ∧
    (∀ r, s.currentStmt = some (.rd r) →
      step s = .next { u with host := { next with last := hostRead r.toIndex s,
                                                  trace := s.host.trace ++ [hostRead r.toIndex s] } }) ∧
    (∀ l, s.currentStmt = some (.label l) → step s = .next { u with host := next }) ∧
    (∀ n l, s.currentStmt = some (.jbit n l) → s.host.last.getLsbD n = false → step s = .next { u with host := next }) ∧
    (∀ n l p, s.currentStmt = some (.jbit n l) → s.host.last.getLsbD n = true →
      s.host.prog[p]? = some (.label l) → (∀ q < p, s.host.prog[q]? ≠ some (.label l)) →
      step s = .next { u with host := { s.host with pos := p } }) ∧
    (∀ l p, s.currentStmt = some (.jmp l) →
      s.host.prog[p]? = some (.label l) → (∀ q < p, s.host.prog[q]? ≠ some (.label l)) →
      step s = .next { u with host := { s.host with pos := p } }) ∧
    ((s.currentStmt = some .halt ∨ s.currentStmt = none) → step s = .next u)

/-- R53, R205: while BUSY = 1, no turn of the host but a reset changes a result, the command in flight or a field of STATUS
other than LOST. That it leaves the hidden engine too is the model's choice (log entry 2). -/
def Obligations.HostTurnWhileBusyKeepsResults : Prop :=
  ∀ s t : State, s.status.busy = true → s.currentTurn = .host → s.currentStmt ≠ some .reset → step s = .next t →
    t.res0 = s.res0 ∧ t.res1 = s.res1 ∧ t.latch = s.latch ∧ t.engine = s.engine ∧
    t.status = { s.status with lost := t.status.lost }

/-- R27, R38, R52: BUSY rises, and the latch is written, only when a CMD write is accepted; the latch then holds that word and
the operand registers. -/
def Obligations.CommandsStartOnlyByAcceptance : Prop :=
  ∀ s t : State, step s = .next t → ¬ s.resets →
    (s.status.busy = false ∧ t.status.busy = true) ∨ t.latch ≠ s.latch →
    s.status.busy = false ∧ t.status.busy = true ∧
    ∃ w, s.writes 2 w ∧ t.latch = { cmd := w, la := s.opa, lb := s.opb } ∧ t.status.lost = false

/-- R21, R22, R24, R25: outside reset, OPA and OPB change only by a host write to their index, and RES0 and RES1 only by the
completion of a command. -/
def Obligations.RegistersHaveOneWriter : Prop :=
  ∀ s t : State, step s = .next t → ¬ s.resets →
    (t.opa ≠ s.opa → ∃ w, s.writes 0 w ∧ t.opa = w.extractLsb' 0 21) ∧
    (t.opb ≠ s.opb → ∃ w, s.writes 1 w ∧ t.opb = w.extractLsb' 0 21) ∧
    (t.res0 ≠ s.res0 ∨ t.res1 ≠ s.res1 → s.completes ∧ t.status.err = false)

/-- R34: LOST rises only by a CMD write while BUSY = 1, and falls, outside reset, only by an accepted one. -/
def Obligations.LostRecordsDroppedWrites : Prop :=
  ∀ s t : State, step s = .next t → ¬ s.resets →
    (s.status.lost = false → t.status.lost = true → s.status.busy = true ∧ ∃ w, s.writes 2 w) ∧
    (s.status.lost = true → t.status.lost = false → s.status.busy = false ∧ ∃ w, s.writes 2 w)

/-! ## Commands: polynomial primitives -/

/-- R110: PDEG copies its operand to RES0, untrimmed, and its flags are the operand's; a malformed operand is InvalidOperand. -/
def Obligations.PdegCopiesAndMeasures : Prop :=
  encode .pdeg = 0x00000001#32 ∧ ∀ s : State,
    (s.operandA.Fits 16 →
      exec .pdeg s = .next (s.completedWith s.latch.la 0 (decide (s.operandA.val = 0)) (decide (s.operandA.val ≠ 0))
        (BitVec.ofNat 5 (if s.operandA.val = 0 then 0 else hibit s.operandA.val)) 0)) ∧
    (¬ s.operandA.Fits 16 → exec .pdeg s = .next (s.failedWith 2))

/-- R111, R102: PTRIM keeps the value and leaves no leading zero; zero becomes `[]`. -/
def Obligations.PtrimLeavesNoLeadingZero : Prop :=
  encode .ptrim = 0x00000002#32 ∧ ∀ s : State,
    (s.operandA.Fits 16 →
      ∃ p, exec .ptrim s = .next (s.completedFor p .empty 0) ∧ p.val = s.operandA.val ∧ p.Fits 16 ∧
        (p.val = 0 → p.len = 0) ∧ (p.val ≠ 0 → p.val.testBit (p.len - 1) = true)) ∧
    (¬ s.operandA.Fits 16 → exec .ptrim s = .next (s.failedWith 2))

/-- R112, R103: PADD gives the coefficient-wise XOR at the longer length. -/
def Obligations.PaddXorsCoefficients : Prop :=
  encode .padd = 0x00000003#32 ∧ ∀ s : State,
    (s.operandA.Fits 16 → s.operandB.Fits 16 →
      ∃ p, exec .padd s = .next (s.completedFor p .empty 0) ∧ p.Fits 16 ∧
        p.len = max s.operandA.len s.operandB.len ∧
        ∀ i, p.val.testBit i = (s.operandA.val.testBit i ^^ s.operandB.val.testBit i)) ∧
    (¬ s.operandA.Fits 16 ∨ ¬ s.operandB.Fits 16 → exec .padd s = .next (s.failedWith 2))

/-- R113, R104: PMUL gives the carry-less product bit by bit at length `la + lb - 1`; Overflow is a test on lengths. -/
def Obligations.PmulMultipliesOrOverflows : Prop :=
  encode .pmul = 0x00000004#32 ∧ ∀ s : State,
    (s.operandA.Fits 16 → s.operandB.Fits 16 →
      (s.operandA.len = 0 ∨ s.operandB.len = 0 ∨ s.operandA.len + s.operandB.len - 1 ≤ 16) →
      ∃ p, exec .pmul s = .next (s.completedFor p .empty 0) ∧ p.Fits 16 ∧
        p.len = (if s.operandA.len = 0 ∨ s.operandB.len = 0 then 0 else s.operandA.len + s.operandB.len - 1) ∧
        ∀ k, p.val.testBit k = productBit s.operandA.val s.operandB.val k) ∧
    (s.operandA.Fits 16 → s.operandB.Fits 16 → 0 < s.operandA.len → 0 < s.operandB.len →
      16 < s.operandA.len + s.operandB.len - 1 → exec .pmul s = .next (s.failedWith 6)) ∧
    (¬ s.operandA.Fits 16 ∨ ¬ s.operandB.Fits 16 → exec .pmul s = .next (s.failedWith 2))

/-- R114, R105, R106: PRED gives the trimmed quotient and the remainder at the dividend's length, with the division identity;
a divisor that is zero by value is DivisionByZero. -/
def Obligations.PredDividesOrReportsZero : Prop :=
  encode .pred = 0x00000005#32 ∧ ∀ s : State,
    (s.operandA.Fits 16 → s.operandB.Fits 16 → s.operandB.val ≠ 0 →
      ∃ q r, exec .pred s = .next (s.completedFor q r 0) ∧ q.Fits 16 ∧ r.Fits 16 ∧
        s.operandA.DividesTo s.operandB q r) ∧
    (s.operandA.Fits 16 → s.operandB.Fits 16 → s.operandB.val = 0 → exec .pred s = .next (s.failedWith 4)) ∧
    (¬ s.operandA.Fits 16 ∨ ¬ s.operandB.Fits 16 → exec .pred s = .next (s.failedWith 2))

/-! ## Commands: field elements and inverse -/

/-- R140, R131: FNEW makes the field element of the operand's value; InvalidLength comes before InvalidOperand. -/
def Obligations.FnewConstructsAnElement : Prop :=
  encode .fnew = 0x00000008#32 ∧ ∀ s : State,
    (s.operandA.Fits 8 →
      s.operandA.val < 256 ∧ exec .fnew s = .next (s.completedFor (fieldElement s.operandA.val) .empty 0)) ∧
    (8 < s.operandA.len → exec .fnew s = .next (s.failedWith 3)) ∧
    (s.operandA.len ≤ 8 → ¬ s.operandA.Pair → exec .fnew s = .next (s.failedWith 2))

/-- R141, R132: FADD gives the field element whose value is the XOR; a non-element is InvalidOperand. -/
def Obligations.FaddXorsElements : Prop :=
  encode .fadd = 0x00000009#32 ∧ ∀ s : State,
    (∀ v w, v < 256 → w < 256 → s.operandA = fieldElement v → s.operandB = fieldElement w →
      v ^^^ w < 256 ∧ exec .fadd s = .next (s.completedFor (fieldElement (v ^^^ w)) .empty 0)) ∧
    (¬ s.operandA.IsElement ∨ ¬ s.operandB.IsElement → exec .fadd s = .next (s.failedWith 2))

/-- R142, R133: FMUL gives the one field element congruent to the carry-less product modulo MOD. -/
def Obligations.FmulReducesTheProduct : Prop :=
  encode .fmul = 0x0000000A#32 ∧ ∀ s : State,
    (∀ v w, v < 256 → w < 256 → s.operandA = fieldElement v → s.operandB = fieldElement w →
      ∃ u, u < 256 ∧ exec .fmul s = .next (s.completedFor (fieldElement u) .empty 0) ∧
        congMod u (clmul v w) ∧ ∀ u', u' < 256 → congMod u' (clmul v w) → u' = u) ∧
    (¬ s.operandA.IsElement ∨ ¬ s.operandB.IsElement → exec .fmul s = .next (s.failedWith 2))

/-- R160, R153, R154, R155: FINV of a nonzero element gives the field element whose product with it is 1 modulo MOD, with an
ITER of 2 to 9; of zero, NoInverse; of anything else, InvalidOperand. What the hidden engine registers hold afterwards is
left open here, as R39 leaves it. -/
def Obligations.FinvInvertsOrReportsNoInverse : Prop :=
  encode .finv = 0x0000000B#32 ∧ ∀ s : State,
    (∀ v, 0 < v → v < 256 → s.operandA = fieldElement v →
      ∃ u n e, 0 < u ∧ u < 256 ∧ n = stepsOf v ∧ 2 ≤ n ∧ n ≤ 9 ∧
        exec .finv s = .next { s.completedFor (fieldElement u) .empty n with engine := e } ∧
        congMod (clmul v u) 1) ∧
    (s.operandA = .empty → exec .finv s = .next (s.failedWith 5)) ∧
    (¬ s.operandA.IsElement → exec .finv s = .next (s.failedWith 2))

/-- R155: FINV's ITER is 2 only for 1, 9 exactly for 0xC4 and 0xDA, and is distributed over the elements as listed. -/
def Obligations.FinvIterationCounts : Prop :=
  (∀ (s : State) (v : Nat), 0 < v → v < 256 → s.operandA = fieldElement v →
    ∃ t, exec .finv s = .next t ∧ t.status.iter.toNat = stepsOf v ∧
      (t.status.iter = 2 ↔ v = 1) ∧ (t.status.iter = 9 ↔ v = 0xC4 ∨ v = 0xDA)) ∧
  ∀ nk ∈ [(2, 1), (3, 10), (4, 44), (5, 78), (6, 68), (7, 34), (8, 18), (9, 2)],
    ((List.range 256).filter fun v => v ≠ 0 ∧ stepsOf v = nk.1).length = nk.2

/-! ## Reserved words and errors -/

/-- R78: each reserved opcode completes with IllegalCommand and changes nothing but ERR, ECODE and BUSY. (That each is a row of
its own is log entry 10.) -/
def Obligations.ReservedOpcodesAreIllegalCommand : Prop :=
  ∀ s : State,
    exec .reservedOpc0 s = .next (s.failedWith 1) ∧ exec .reservedOpc6 s = .next (s.failedWith 1) ∧
    exec .reservedOpc7 s = .next (s.failedWith 1) ∧ exec .reservedOpcC s = .next (s.failedWith 1) ∧
    exec .reservedOpcD s = .next (s.failedWith 1) ∧ exec .reservedOpcE s = .next (s.failedWith 1) ∧
    exec .reservedOpcF s = .next (s.failedWith 1)

/-- R27, R78: every latched word that decodes to ILLEGAL completes with IllegalCommand, whatever the operands hold, and a step of
the machine on the core's turn is that completion; a word with a bit of [31:4] set is one of them, whatever its OPC. That the
step also takes the turn from the turns to come is the model's own (log entry 5). -/
def Obligations.IllegalWordsCompleteWithIllegalCommand : Prop :=
  (∀ s : State, s.status.busy = true → isIllegal s.latch.cmd = true → completionStep s = .next (s.failedWith 1)) ∧
  (∀ s : State, s.completes → isIllegal s.latch.cmd = true →
    step s = .next ({ s with sched := s.sched.tail }.failedWith 1)) ∧
  ∀ c : Word, c.extractLsb' 4 28 ≠ 0 → isIllegal c = true

/-- R171 to R178, R79: each error comes from its own commands and exactly its own cause, with the priority of R178 where two
causes meet, and code 7 is never written. IllegalCommand is here the completion of the reserved rows (log entry 10); the
words that are no row are the subject of IllegalWordsCompleteWithIllegalCommand. -/
def Obligations.EachErrorHasItsCause : Prop :=
  ∀ (i : Instr) (s t : State), exec i s = .next t →
    t.status.ecode ≠ 7 ∧ (t.status.ecode = 0 ↔ t.status.err = false) ∧
    (t.status.ecode = 1 ↔ i.isReserved = true) ∧
    (t.status.ecode = 2 ↔
      (i ∈ [.pdeg, .ptrim] ∧ ¬ s.operandA.Fits 16) ∨
      (i ∈ [.padd, .pmul, .pred] ∧ (¬ s.operandA.Fits 16 ∨ ¬ s.operandB.Fits 16)) ∨
      (i = .fnew ∧ s.operandA.len ≤ 8 ∧ ¬ s.operandA.Pair) ∨
      (i ∈ [.fadd, .fmul] ∧ (¬ s.operandA.IsElement ∨ ¬ s.operandB.IsElement)) ∨
      (i = .finv ∧ ¬ s.operandA.IsElement)) ∧
    (t.status.ecode = 3 ↔ i = .fnew ∧ 8 < s.operandA.len) ∧
    (t.status.ecode = 4 ↔ i = .pred ∧ s.operandA.Fits 16 ∧ s.operandB.Fits 16 ∧ s.operandB.val = 0) ∧
    (t.status.ecode = 5 ↔ i = .finv ∧ s.operandA = .empty) ∧
    (t.status.ecode = 6 ↔ i = .pmul ∧ s.operandA.Fits 16 ∧ s.operandB.Fits 16 ∧ 0 < s.operandA.len ∧
      0 < s.operandB.len ∧ 16 < s.operandA.len + s.operandB.len - 1)

/-- R179: a command that ends in an error writes ERR, ECODE and BUSY, and nothing else. -/
def Obligations.ErrorsArePrecise : Prop :=
  ∀ (i : Instr) (s t : State), exec i s = .next t → t.status.err = true →
    ∃ code : BitVec 3, 1 ≤ code.toNat ∧ code.toNat ≤ 6 ∧ t = s.failedWith code

/-! ## What holds of every command -/

/-- Every step answers a next state. That no access faults is R58, that an error is no trap R170, that every word has an effect
R77 and R78; that so no step at all ends in a fault or a refusal is read from them by the model (log entry 13), and that the
host goes on at a jump to an undeclared label and past its program's end is the model's choice (log entries 4 and 12). -/
def Obligations.EveryStepGoesOn : Prop := ∀ s : State, GoesOn (step s)

/-- R22, R23, R27, R34, R38: the frame of every command. It writes no operand register, no latch and not LOST, and ends with
BUSY = 0. That it writes nothing of the host and of the turns to come is the model's own (log entry 5), and that a command
other than FINV keeps the engine's registers, which R39 leaves open, is the model's choice (log entry 2). -/
def Obligations.CommandsLeaveTheRestAlone : Prop :=
  ∀ (i : Instr) (s t : State), exec i s = .next t →
    t.opa = s.opa ∧ t.opb = s.opb ∧ t.latch = s.latch ∧ t.status.lost = s.status.lost ∧ t.status.busy = false ∧
    t.host = s.host ∧ t.sched = s.sched ∧ (i ≠ .finv → t.engine = s.engine)

/-- R25, R33: after a success, RES1 is `[]` unless the command is PRED, and ITER is 0 unless it is FINV. -/
def Obligations.SecondaryResultsAreZeroElsewhere : Prop :=
  ∀ (i : Instr) (s t : State), exec i s = .next t → t.status.err = false →
    (i ≠ .pred → t.res1 = 0) ∧ (i ≠ .finv → t.status.iter = 0)

/-- R74: the results of a success are well formed, with zeros above bit 20; field results are field elements; PTRIM's result
and PRED's quotient are trimmed. -/
def Obligations.ResultsAreWellFormed : Prop :=
  ∀ (i : Instr) (s t : State), exec i s = .next t → t.status.err = false →
    (PolyReg.toPoly t.res0).Fits 16 ∧ (PolyReg.toPoly t.res1).Fits 16 ∧
    (hostRead 3 t).extractLsb' 21 11 = 0 ∧ (hostRead 4 t).extractLsb' 21 11 = 0 ∧
    (i ∈ [.fnew, .fadd, .fmul, .finv] → (PolyReg.toPoly t.res0).IsElement) ∧
    (i ∈ [.ptrim, .pred] → (PolyReg.toPoly t.res0).Trimmed)

/-- R108, R30 to R32: after a success, Z, DEGV and DEG describe the RES0 that a host then reads. -/
def Obligations.FlagsDescribeRes0 : Prop :=
  ∀ (i : Instr) (s t : State), exec i s = .next t → t.status.err = false →
    (t.status.z = true ↔ (PolyReg.toPoly t.res0).val = 0) ∧ t.status.degv = !t.status.z ∧
    (t.status.degv = false → t.status.deg = 0) ∧
    (t.status.degv = true → (PolyReg.toPoly t.res0).val.testBit t.status.deg.toNat = true ∧
      (PolyReg.toPoly t.res0).val < 2 ^ (t.status.deg.toNat + 1))

/-! ## The machine as a whole -/

/-- The reset state is sound (R41, R26). For the hidden engine this rests on the model's choice of its reset value (log entry
2). -/
def Obligations.ResetStateIsSound : Prop := State.reset.Inv

/-- Every step keeps the state sound: results well formed (R74), flags those of RES0 (R108), ERR and ECODE in agreement (R28,
R29), ITER in its range (R33), the engine within its widths (R157; what its registers hold outside FINV is the model's choice,
log entry 2). -/
def Obligations.EveryStepKeepsTheStateSound : Prop :=
  ∀ s t : State, s.Inv → step s = .next t → t.Inv

/-- R60, R208, S3: however many host accesses other than CMD writes come between acceptance and completion, the outcome is
the same as if the command had completed before them. -/
def Obligations.LatencyDoesNotChangeTheOutcome : Prop :=
  ∀ (s t : State) (accesses : List HostAccess), s.status.busy = true → completionStep s = .next t →
    completionStep (applyAccesses accesses s) = .next (applyAccesses accesses t)

/-- R207, R202: from every state with a command in flight, whatever the turns to come, BUSY falls within one step more than there
are turns to come; up to that step the command in flight is the same, and the step is its completion or a reset, which
discards it. With no reset among the turns to come and none in the host's program, it is the completion. (That a turn list
which has run out lets the core complete is the model's form of weak fairness, log entry 5.) -/
def Obligations.EveryAcceptedCommandCompletesUnlessReset : Prop :=
  ∀ s : State, s.status.busy = true →
    ∃ (k : Nat) (u t : State), k ≤ s.sched.length ∧
      Host.Core.run Sys2Proof.core k s = .next u ∧ u.status.busy = true ∧ u.latch = s.latch ∧
      Host.Core.run Sys2Proof.core (k + 1) s = .next t ∧ step u = .next t ∧ t.status.busy = false ∧
      ((u.completes ∧ completionStep { u with sched := u.sched.tail } = .next t) ∨ u.resets) ∧
      (Turn.reset ∉ s.sched → HostStmt.reset ∉ s.host.prog → u.completes)

/-! ## The primitives -/

/-- R107, laws 1 to 5, 7 and 8. -/
def Obligations.AdditionAndMultiplicationLaws : Prop :=
  (∀ a b c : BinPoly, a.add b = b.add a ∧ (a.add b).add c = a.add (b.add c) ∧ a.add a = ⟨a.len, 0⟩ ∧ a.add .empty = a ∧
    a.multiply b = b.multiply a ∧ a.multiply .empty = .empty) ∧
  ∀ a : BinPoly, a.Pair → a.multiply .one = a

/-- R107, law 6: degrees add under multiplication, and (R104) the product fits its length. -/
def Obligations.DegreesAddUnderMultiplication : Prop :=
  ∀ a b : BinPoly, a.Pair → b.Pair →
    (a.multiply b).Pair ∧
    ∀ d e, a.degree = some d → b.degree = some e → (a.multiply b).degree = some (d + e)

/-- R104: every bit of the carry-less product is the XOR-convolution of the factors' bits. -/
def Obligations.CarrylessProductIsConvolution : Prop :=
  ∀ x y k : Nat, (clmul x y).testBit k = productBit x y k

/-- R105, R107 law 9: division by a nonzero polynomial satisfies the division identity, and no other quotient and remainder
value does. -/
def Obligations.DivisionIdentityIsUnique : Prop :=
  ∀ p m : BinPoly, m.val ≠ 0 →
    ∃ q r, p.reduce m = .ok (q, r) ∧ p.DividesTo m q r ∧
      ∀ q' r' : Nat, p.val = clmul q' m.val ^^^ r' → (r' = 0 ∨ hibit r' < hibit m.val) → q' = q.val ∧ r' = r.val

/-- R101: the degree of a sequence of length `n` whose first 1 stands at `j` is `n-1-j`, and a sequence of zeros has none. -/
def Obligations.DegreeOnSequences : Prop :=
  (∀ (zeros : Nat) (rest : List Bool),
    (BinPoly.ofSeq (List.replicate zeros false ++ true :: rest)).degree = some rest.length) ∧
  (∀ zeros : Nat, (BinPoly.ofSeq (List.replicate zeros false)).degree = none) ∧
  ∀ p : BinPoly, p.degree = if p.val = 0 then none else some (hibit p.val)

/-- R102: trim removes exactly the leading zeros, keeps the value and is idempotent. -/
def Obligations.TrimOnSequences : Prop :=
  ∀ p : BinPoly, p.Pair →
    p.trim.toSeq = p.toSeq.dropWhile (fun b => !b) ∧ p.trim.val = p.val ∧ p.trim.len ≤ p.len ∧
      p.trim.trim = p.trim

/-- R103: on sequences, add is XOR after zero-extension on the high-degree side. -/
def Obligations.AddOnSequences : Prop :=
  ∀ a b : BinPoly, a.Pair → b.Pair →
    (a.add b).toSeq =
      List.zipWith (fun x y => x ^^ y) (List.replicate (max a.len b.len - a.len) false ++ a.toSeq)
        (List.replicate (max a.len b.len - b.len) false ++ b.toSeq)

/-! ## The field -/

/-- R40, R130: the modulus is `(9, 0x11B)`, the sequence `[1,0,0,0,1,1,0,1,1]`, and it is irreducible: a carry-less product that
equals it has a factor 1. -/
def Obligations.ModulusIsIrreducible : Prop :=
  Config.MOD = ⟨9, 0x11B⟩ ∧ Config.MOD.toSeq = [true, false, false, false, true, true, false, true, true] ∧
  ∀ x y : Nat, clmul x y = Config.MOD.val → x = 1 ∨ y = 1

/-- R134: field addition is closed, commutative, associative and self-inverse, with the zero element as identity. -/
def Obligations.FieldAdditionLaws : Prop :=
  ∀ a b c : BinPoly, a.IsElement → b.IsElement → c.IsElement →
    (a.fadd b).IsElement ∧ a.fadd b = b.fadd a ∧ (a.fadd b).fadd c = a.fadd (b.fadd c) ∧
    a.fadd a = .empty ∧ a.fadd .empty = a

/-- R134: field multiplication never raises on elements, is closed and commutative, and has identity 1 and zero 0. -/
def Obligations.FieldMultiplicationLaws : Prop :=
  ∀ a b : BinPoly, a.IsElement → b.IsElement →
    (∃ p, a.fmul b = .ok p ∧ p.IsElement) ∧ a.fmul b = b.fmul a ∧ a.fmul .one = .ok a ∧ a.fmul .empty = .ok .empty

/-- R134: field multiplication distributes over field addition. -/
def Obligations.FieldMultiplicationDistributes : Prop :=
  ∀ a b c p q : BinPoly, a.IsElement → b.IsElement → c.IsElement → a.fmul b = .ok p → a.fmul c = .ok q →
    a.fmul (b.fadd c) = .ok (p.fadd q)

/-- R134: field multiplication is associative. -/
def Obligations.FieldMultiplicationIsAssociative : Prop :=
  ∀ a b c p q : BinPoly, a.IsElement → b.IsElement → c.IsElement → a.fmul b = .ok p → b.fmul c = .ok q →
    p.fmul c = a.fmul q

/-- R153: the engine's result on a nonzero element is its inverse, and inverting twice gives the element back. -/
def Obligations.EngineResultIsTheInverse : Prop :=
  ∀ a : BinPoly, a.IsElement → a.val ≠ 0 →
    ∃ e e', Engine.runOn a = .ok e ∧ e.result.IsElement ∧ a.fmul e.result = .ok .one ∧
      Engine.runOn e.result = .ok e' ∧ e'.result = a

/-! ## The engine -/

/-- R155, R156 invariants 2 and 3: a step that goes on leaves a nonzero `r_cur` of smaller degree, and becomes the next
`r_prev`. -/
def Obligations.EngineDegreeFalls : Prop :=
  ∀ e e' : Engine, e.rCur.val ≠ 0 → e.step = .ok (.cont e') →
    e'.rCur.val ≠ 0 ∧ hibit e'.rCur.val < hibit e.rCur.val ∧ e'.rPrev = e.rCur ∧ e'.n = e.n + 1

/-- R155: from every engine state with `r_cur` nonzero the engine reaches DONE, with no error, within `degree(r_cur)` steps that
go on; so no cap on its steps can ever act. -/
def Obligations.EngineReachesDone : Prop :=
  ∀ (e : Engine) (fuel : Nat), e.rCur.val ≠ 0 → hibit e.rCur.val ≤ fuel →
    ∃ e' u, Engine.run fuel e = .ok e' ∧ e'.step = .ok (.done u e'.steps) ∧ u = e'.sCur ∧
      e'.n ≤ e.n + hibit e.rCur.val

/-- R156 invariant 1: `s · a ≡ r (mod MOD)` holds at `E0(a)` and every step that goes on keeps it. -/
def Obligations.EngineKeepsTheBezoutIdentity : Prop :=
  ∀ a : BinPoly, Engine.Bezout a (Engine.init a) ∧
    ∀ e e' : Engine, Engine.Bezout a e → e.step = .ok (.cont e') → Engine.Bezout a e'

/-- R157: on every nonzero element, every polynomial the engine holds or forms fits 9 coefficients. -/
def Obligations.EngineFitsNineCoefficients : Prop :=
  ∀ (v k : Nat) (e : Engine), 0 < v → v < 256 → Engine.run k (Engine.init (fieldElement v)) = .ok e →
    e.rPrev.Fits 9 ∧ e.rCur.Fits 9 ∧ e.sPrev.Fits 9 ∧ e.sCur.Fits 9 ∧
    ∃ q r, e.rPrev.reduce e.rCur = .ok (q, r) ∧ q.Fits 9 ∧ r.Fits 9 ∧ (q.multiply e.sCur).Fits 9 ∧
      (e.sPrev.add (q.multiply e.sCur)).Fits 9
end

