-- ==== Sys2Proof/Laws/State.lean ====
section
/-! SUPPORT. One lemma per field per update of the state, each true by unfolding the update once. -/

namespace Sys2Proof.Machine

variable (s : State)

/-! `success` -/

@[simp] theorem success_opa (r0 r1 : BinPoly) (n : Nat) : (success r0 r1 n s).opa = s.opa := rfl
@[simp] theorem success_opb (r0 r1 : BinPoly) (n : Nat) : (success r0 r1 n s).opb = s.opb := rfl
@[simp] theorem success_res0 (r0 r1 : BinPoly) (n : Nat) : (success r0 r1 n s).res0 = r0.toReg := rfl
@[simp] theorem success_res1 (r0 r1 : BinPoly) (n : Nat) : (success r0 r1 n s).res1 = r1.toReg := rfl
@[simp] theorem success_busy (r0 r1 : BinPoly) (n : Nat) : (success r0 r1 n s).status.busy = false := rfl
@[simp] theorem success_err (r0 r1 : BinPoly) (n : Nat) : (success r0 r1 n s).status.err = false := rfl
@[simp] theorem success_ecode (r0 r1 : BinPoly) (n : Nat) : (success r0 r1 n s).status.ecode = 0 := rfl
@[simp] theorem success_z (r0 r1 : BinPoly) (n : Nat) : (success r0 r1 n s).status.z = r0.flagZ := rfl
@[simp] theorem success_degv (r0 r1 : BinPoly) (n : Nat) : (success r0 r1 n s).status.degv = r0.flagDegv := rfl
@[simp] theorem success_deg (r0 r1 : BinPoly) (n : Nat) : (success r0 r1 n s).status.deg = r0.flagDeg := rfl
@[simp] theorem success_iter (r0 r1 : BinPoly) (n : Nat) : (success r0 r1 n s).status.iter = BitVec.ofNat 4 n := rfl
@[simp] theorem success_lost (r0 r1 : BinPoly) (n : Nat) : (success r0 r1 n s).status.lost = s.status.lost := rfl
@[simp] theorem success_latch (r0 r1 : BinPoly) (n : Nat) : (success r0 r1 n s).latch = s.latch := rfl
@[simp] theorem success_engine (r0 r1 : BinPoly) (n : Nat) : (success r0 r1 n s).engine = s.engine := rfl
@[simp] theorem success_host (r0 r1 : BinPoly) (n : Nat) : (success r0 r1 n s).host = s.host := rfl
@[simp] theorem success_sched (r0 r1 : BinPoly) (n : Nat) : (success r0 r1 n s).sched = s.sched := rfl

/-! `raiseError` -/

@[simp] theorem raiseError_opa (c : ErrCode) : (raiseError c s).opa = s.opa := rfl
@[simp] theorem raiseError_opb (c : ErrCode) : (raiseError c s).opb = s.opb := rfl
@[simp] theorem raiseError_res0 (c : ErrCode) : (raiseError c s).res0 = s.res0 := rfl
@[simp] theorem raiseError_res1 (c : ErrCode) : (raiseError c s).res1 = s.res1 := rfl
@[simp] theorem raiseError_busy (c : ErrCode) : (raiseError c s).status.busy = false := rfl
@[simp] theorem raiseError_err (c : ErrCode) : (raiseError c s).status.err = true := rfl
@[simp] theorem raiseError_ecode (c : ErrCode) : (raiseError c s).status.ecode = c.code := rfl
@[simp] theorem raiseError_z (c : ErrCode) : (raiseError c s).status.z = s.status.z := rfl
@[simp] theorem raiseError_degv (c : ErrCode) : (raiseError c s).status.degv = s.status.degv := rfl
@[simp] theorem raiseError_deg (c : ErrCode) : (raiseError c s).status.deg = s.status.deg := rfl
@[simp] theorem raiseError_iter (c : ErrCode) : (raiseError c s).status.iter = s.status.iter := rfl
@[simp] theorem raiseError_lost (c : ErrCode) : (raiseError c s).status.lost = s.status.lost := rfl
@[simp] theorem raiseError_latch (c : ErrCode) : (raiseError c s).latch = s.latch := rfl
@[simp] theorem raiseError_engine (c : ErrCode) : (raiseError c s).engine = s.engine := rfl
@[simp] theorem raiseError_host (c : ErrCode) : (raiseError c s).host = s.host := rfl
@[simp] theorem raiseError_sched (c : ErrCode) : (raiseError c s).sched = s.sched := rfl

/-! `setEngine` -/

@[simp] theorem setEngine_opa (e : Engine) : (s.setEngine e).opa = s.opa := rfl
@[simp] theorem setEngine_opb (e : Engine) : (s.setEngine e).opb = s.opb := rfl
@[simp] theorem setEngine_res0 (e : Engine) : (s.setEngine e).res0 = s.res0 := rfl
@[simp] theorem setEngine_res1 (e : Engine) : (s.setEngine e).res1 = s.res1 := rfl
@[simp] theorem setEngine_status (e : Engine) : (s.setEngine e).status = s.status := rfl
@[simp] theorem setEngine_latch (e : Engine) : (s.setEngine e).latch = s.latch := rfl
@[simp] theorem setEngine_engine (e : Engine) : (s.setEngine e).engine = e := rfl
@[simp] theorem setEngine_host (e : Engine) : (s.setEngine e).host = s.host := rfl
@[simp] theorem setEngine_sched (e : Engine) : (s.setEngine e).sched = s.sched := rfl

/-! `acceptCommand` -/

@[simp] theorem acceptCommand_opa (w : Word) : (acceptCommand w s).opa = s.opa := rfl
@[simp] theorem acceptCommand_opb (w : Word) : (acceptCommand w s).opb = s.opb := rfl
@[simp] theorem acceptCommand_res0 (w : Word) : (acceptCommand w s).res0 = s.res0 := rfl
@[simp] theorem acceptCommand_res1 (w : Word) : (acceptCommand w s).res1 = s.res1 := rfl
@[simp] theorem acceptCommand_busy (w : Word) : (acceptCommand w s).status.busy = true := rfl
@[simp] theorem acceptCommand_err (w : Word) : (acceptCommand w s).status.err = s.status.err := rfl
@[simp] theorem acceptCommand_ecode (w : Word) : (acceptCommand w s).status.ecode = s.status.ecode := rfl
@[simp] theorem acceptCommand_z (w : Word) : (acceptCommand w s).status.z = s.status.z := rfl
@[simp] theorem acceptCommand_degv (w : Word) : (acceptCommand w s).status.degv = s.status.degv := rfl
@[simp] theorem acceptCommand_deg (w : Word) : (acceptCommand w s).status.deg = s.status.deg := rfl
@[simp] theorem acceptCommand_iter (w : Word) : (acceptCommand w s).status.iter = s.status.iter := rfl
@[simp] theorem acceptCommand_lost (w : Word) : (acceptCommand w s).status.lost = false := rfl
@[simp] theorem acceptCommand_latch (w : Word) : (acceptCommand w s).latch = { cmd := w, la := s.opa, lb := s.opb } := rfl
@[simp] theorem acceptCommand_engine (w : Word) : (acceptCommand w s).engine = s.engine := rfl
@[simp] theorem acceptCommand_host (w : Word) : (acceptCommand w s).host = s.host := rfl
@[simp] theorem acceptCommand_sched (w : Word) : (acceptCommand w s).sched = s.sched := rfl

/-! `dropCommand` -/

@[simp] theorem dropCommand_opa : (dropCommand s).opa = s.opa := rfl
@[simp] theorem dropCommand_opb : (dropCommand s).opb = s.opb := rfl
@[simp] theorem dropCommand_res0 : (dropCommand s).res0 = s.res0 := rfl
@[simp] theorem dropCommand_res1 : (dropCommand s).res1 = s.res1 := rfl
@[simp] theorem dropCommand_busy : (dropCommand s).status.busy = s.status.busy := rfl
@[simp] theorem dropCommand_err : (dropCommand s).status.err = s.status.err := rfl
@[simp] theorem dropCommand_ecode : (dropCommand s).status.ecode = s.status.ecode := rfl
@[simp] theorem dropCommand_z : (dropCommand s).status.z = s.status.z := rfl
@[simp] theorem dropCommand_degv : (dropCommand s).status.degv = s.status.degv := rfl
@[simp] theorem dropCommand_deg : (dropCommand s).status.deg = s.status.deg := rfl
@[simp] theorem dropCommand_iter : (dropCommand s).status.iter = s.status.iter := rfl
@[simp] theorem dropCommand_lost : (dropCommand s).status.lost = true := rfl
@[simp] theorem dropCommand_latch : (dropCommand s).latch = s.latch := rfl
@[simp] theorem dropCommand_engine : (dropCommand s).engine = s.engine := rfl
@[simp] theorem dropCommand_host : (dropCommand s).host = s.host := rfl
@[simp] theorem dropCommand_sched : (dropCommand s).sched = s.sched := rfl

/-! `resetEvent` -/

@[simp] theorem resetEvent_opa : (resetEvent s).opa = 0 := rfl
@[simp] theorem resetEvent_opb : (resetEvent s).opb = 0 := rfl
@[simp] theorem resetEvent_res0 : (resetEvent s).res0 = 0 := rfl
@[simp] theorem resetEvent_res1 : (resetEvent s).res1 = 0 := rfl
@[simp] theorem resetEvent_status : (resetEvent s).status = Status.reset := rfl
@[simp] theorem resetEvent_latch : (resetEvent s).latch = Latch.reset := rfl
@[simp] theorem resetEvent_engine : (resetEvent s).engine = Engine.reset := rfl
@[simp] theorem resetEvent_host : (resetEvent s).host = s.host := rfl
@[simp] theorem resetEvent_sched : (resetEvent s).sched = s.sched := rfl

/-! `popTurn` -/

@[simp] theorem popTurn_opa : (s.popTurn).opa = s.opa := rfl
@[simp] theorem popTurn_opb : (s.popTurn).opb = s.opb := rfl
@[simp] theorem popTurn_res0 : (s.popTurn).res0 = s.res0 := rfl
@[simp] theorem popTurn_res1 : (s.popTurn).res1 = s.res1 := rfl
@[simp] theorem popTurn_status : (s.popTurn).status = s.status := rfl
@[simp] theorem popTurn_latch : (s.popTurn).latch = s.latch := rfl
@[simp] theorem popTurn_engine : (s.popTurn).engine = s.engine := rfl
@[simp] theorem popTurn_host : (s.popTurn).host = s.host := rfl
@[simp] theorem popTurn_sched : (s.popTurn).sched = s.sched.tail := rfl

/-! `pushCore` -/

@[simp] theorem pushCore_opa : (s.pushCore).opa = s.opa := rfl
@[simp] theorem pushCore_opb : (s.pushCore).opb = s.opb := rfl
@[simp] theorem pushCore_res0 : (s.pushCore).res0 = s.res0 := rfl
@[simp] theorem pushCore_res1 : (s.pushCore).res1 = s.res1 := rfl
@[simp] theorem pushCore_status : (s.pushCore).status = s.status := rfl
@[simp] theorem pushCore_latch : (s.pushCore).latch = s.latch := rfl
@[simp] theorem pushCore_engine : (s.pushCore).engine = s.engine := rfl
@[simp] theorem pushCore_host : (s.pushCore).host = s.host := rfl
@[simp] theorem pushCore_sched : (s.pushCore).sched = .core :: s.sched := rfl

/-! `setHost` -/

@[simp] theorem setHost_opa (h : HostAgent) : (s.setHost h).opa = s.opa := rfl
@[simp] theorem setHost_opb (h : HostAgent) : (s.setHost h).opb = s.opb := rfl
@[simp] theorem setHost_res0 (h : HostAgent) : (s.setHost h).res0 = s.res0 := rfl
@[simp] theorem setHost_res1 (h : HostAgent) : (s.setHost h).res1 = s.res1 := rfl
@[simp] theorem setHost_status (h : HostAgent) : (s.setHost h).status = s.status := rfl
@[simp] theorem setHost_latch (h : HostAgent) : (s.setHost h).latch = s.latch := rfl
@[simp] theorem setHost_engine (h : HostAgent) : (s.setHost h).engine = s.engine := rfl
@[simp] theorem setHost_host (h : HostAgent) : (s.setHost h).host = h := rfl
@[simp] theorem setHost_sched (h : HostAgent) : (s.setHost h).sched = s.sched := rfl

/-! The host agent -/

variable (h : HostAgent)

@[simp] theorem advance_prog : h.advance.prog = h.prog := rfl
@[simp] theorem advance_pos : h.advance.pos = h.pos + 1 := rfl
@[simp] theorem advance_last : h.advance.last = h.last := rfl
@[simp] theorem advance_trace : h.advance.trace = h.trace := rfl
@[simp] theorem record_prog (w : Word) : (h.record w).prog = h.prog := rfl
@[simp] theorem record_pos (w : Word) : (h.record w).pos = h.pos := rfl
@[simp] theorem record_last (w : Word) : (h.record w).last = w := rfl
@[simp] theorem record_trace (w : Word) : (h.record w).trace = h.trace ++ [w] := rfl
@[simp] theorem goto_prog (l : Nat) : (h.goto l).prog = h.prog := rfl
@[simp] theorem goto_last (l : Nat) : (h.goto l).last = h.last := rfl
@[simp] theorem goto_trace (l : Nat) : (h.goto l).trace = h.trace := rfl

/-! What the operations read of a state they have changed -/

@[simp] theorem popTurn_operandA : s.popTurn.operandA = s.operandA := rfl
@[simp] theorem popTurn_operandB : s.popTurn.operandB = s.operandB := rfl
@[simp] theorem popTurn_currentStmt : s.popTurn.currentStmt = s.currentStmt := rfl
@[simp] theorem setEngine_operandA (e : Engine) : (s.setEngine e).operandA = s.operandA := rfl
@[simp] theorem setEngine_operandB (e : Engine) : (s.setEngine e).operandB = s.operandB := rfl
@[simp] theorem pushCore_currentTurn : s.pushCore.currentTurn = .core := rfl
@[simp] theorem pushCore_popTurn : s.pushCore.popTurn = s := rfl
@[simp] theorem hostRead_popTurn (idx : RegIndex) : hostRead idx s.popTurn = hostRead idx s := rfl

end Sys2Proof.Machine
end

