-- ==== Sys2Proof/Laws/Ops.lean ====
section
/-! SUPPORT. For each shared operation, once, everything it can do. -/

namespace Sys2Proof.Machine

/-- `success` writes the results, the flags of the first, ITER, and clears ERR, ECODE and BUSY; the rest stays. -/
theorem success_eq (r0 r1 : BinPoly) (n : Nat) (s : State) :
    success r0 r1 n s = s.completedWith r0.toReg r1.toReg r0.flagZ r0.flagDegv r0.flagDeg (BitVec.ofNat 4 n) := rfl

/-- `raiseError` writes ERR, ECODE and BUSY; the rest stays. -/
theorem raiseError_eq (c : ErrCode) (s : State) : raiseError c s = s.failedWith c.code := rfl

/-- An error's code is 1 to 6. -/
theorem code_range (c : ErrCode) : 1 ≤ c.code.toNat ∧ c.code.toNat ≤ 6 := by cases c <;> decide

theorem code_injective {c d : ErrCode} (h : c.code = d.code) : c = d := by
  cases c <;> cases d <;> first | rfl | exact absurd h (by decide)

@[simp] theorem hostWrite_opa (d : Word) (s : State) : hostWrite 0#3 d s = { s with opa := d.extractLsb' 0 21 } := rfl

@[simp] theorem hostWrite_opb (d : Word) (s : State) : hostWrite 1#3 d s = { s with opb := d.extractLsb' 0 21 } := rfl

@[simp] theorem hostWrite_cmd (d : Word) (s : State) :
    hostWrite 2#3 d s = if s.status.busy then dropCommand s else acceptCommand d s := rfl

theorem hostWrite_ignored (idx : RegIndex) (d : Word) (s : State) (h : 3 ≤ idx.toNat) : hostWrite idx d s = s := by
  unfold hostWrite
  split <;> first | rfl | omega

/-- A host write stores an operand, drops a command, accepts a command, or does nothing. -/
theorem hostWrite_cases (idx : RegIndex) (d : Word) (s : State) :
    (idx = 0 ∧ hostWrite idx d s = { s with opa := d.extractLsb' 0 21 }) ∨
    (idx = 1 ∧ hostWrite idx d s = { s with opb := d.extractLsb' 0 21 }) ∨
    (idx = 2 ∧ s.status.busy = true ∧ hostWrite idx d s = dropCommand s) ∨
    (idx = 2 ∧ s.status.busy = false ∧ hostWrite idx d s = acceptCommand d s) ∨
    (3 ≤ idx.toNat ∧ hostWrite idx d s = s) := by
  by_cases h : 3 ≤ idx.toNat
  · exact .inr (.inr (.inr (.inr ⟨h, hostWrite_ignored idx d s h⟩)))
  · have hidx : idx = 0 ∨ idx = 1 ∨ idx = 2 := by
      revert h
      revert idx
      decide
    obtain rfl | rfl | rfl := hidx
    · exact .inl ⟨rfl, rfl⟩
    · exact .inr (.inl ⟨rfl, rfl⟩)
    · cases hb : s.status.busy
      · exact .inr (.inr (.inr (.inl ⟨rfl, rfl, by simp [hb]⟩)))
      · exact .inr (.inr (.inl ⟨rfl, rfl, by simp [hb]⟩))

/-- A turn that stands first in the turns to come is the one taken. -/
@[simp] theorem currentTurn_cons (s : State) (t : Turn) (ts : List Turn) (h : s.sched = t :: ts) : s.currentTurn = t := by
  simp [State.currentTurn, h]

@[simp] theorem currentTurn_nil (s : State) (h : s.sched = []) :
    s.currentTurn = if s.status.busy then .core else .host := by
  simp [State.currentTurn, h]

/-- A turn of the host stores, drops, accepts, reads, moves inside its program, resets or does nothing. -/
theorem hostTurn_cases (s : State) :
    (∃ r v, s.currentStmt = some (.wr r v) ∧
      hostTurn s = hostWrite r.toIndex (v.eval s.host) (s.setHost s.host.advance)) ∨
    (s.currentStmt = some .reset ∧ hostTurn s = resetEvent (s.setHost s.host.advance)) ∨
    ((∀ r v, s.currentStmt ≠ some (.wr r v)) ∧ s.currentStmt ≠ some .reset ∧ ∃ h, hostTurn s = s.setHost h) := by
  unfold hostTurn
  cases hc : s.currentStmt with
  | none => exact .inr (.inr ⟨by simp, by simp, s.host, rfl⟩)
  | some st =>
    cases st with
    | wr r v => exact .inl ⟨r, v, rfl, rfl⟩
    | reset => exact .inr (.inl ⟨rfl, rfl⟩)
    | halt => exact .inr (.inr ⟨by simp, by simp, s.host, rfl⟩)
    | rd r => exact .inr (.inr ⟨by simp, by simp, _, rfl⟩)
    | label l => exact .inr (.inr ⟨by simp, by simp, _, rfl⟩)
    | jbit n l => exact .inr (.inr ⟨by simp, by simp, _, rfl⟩)
    | jmp l => exact .inr (.inr ⟨by simp, by simp, _, rfl⟩)

end Sys2Proof.Machine
end

