-- ==== Sys2Proof/WellFormed.lean ====
section
/-! DEFINITION. Well-formedness of what is written before a run: commands and host programs. (Whether a POLY VALUE is
well formed is checked by the core itself when a command reads it, R72: see Machine/Operands.lean.) -/

namespace Sys2Proof

/-- Every command is well formed: it has no operand field that could be out of range (R80, R81). -/
def Instr.wellFormed (_ : Instr) : Bool := true

namespace Machine

/-- The label a statement jumps to, if it jumps (R82). -/
def HostStmt.target : HostStmt → Option Nat
  | .jbit _ l => some l
  | .jmp l => some l
  | .wr _ _ => none
  | .rd _ => none
  | .label _ => none
  | .halt => none
  | .reset => none

/-- The label a statement declares, if it is one (R82). -/
def HostStmt.declares : HostStmt → Option Nat
  | .label l => some l
  | .wr _ _ => none
  | .rd _ => none
  | .jbit _ _ => none
  | .jmp _ => none
  | .halt => none
  | .reset => none

/-- Every jump of a host program goes to a label the program declares. -/
def hostTargetsDeclared (p : List HostStmt) : Bool :=
  (p.filterMap HostStmt.target).all fun l => (p.filterMap HostStmt.declares).contains l

/-- No label of a host program is declared twice: "a fresh label" (R83). -/
def hostLabelsDistinct (p : List HostStmt) : Bool :=
  decide (p.filterMap HostStmt.declares).Nodup

/-- A host program in which every label means one place. -/
def hostProgramWellFormed (p : List HostStmt) : Bool :=
  hostTargetsDeclared p && hostLabelsDistinct p

end Machine

end Sys2Proof
end

