-- ==== Sys2Proof/Laws/PerInstr.lean ====
section
/-! SUPPORT. The per-instruction family `OpcodeWord`: the word of every row has MBZ zero (R75), is well formed, and is read
back by its OPC alone. -/

namespace Sys2Proof.Laws

/-- The word of the row has no bit of MBZ set, and the row is the one its OPC names (R75, R76). -/
def OpcodeWord.Statement (i : Instr) : Prop :=
  i.wellFormed = true ∧ mbzField (encode i) = 0 ∧ decodeOpc (opcField (encode i)) = .ok i

theorem OpcodeWord.reservedOpc0 : OpcodeWord.Statement .reservedOpc0 := ⟨rfl, rfl, rfl⟩
theorem OpcodeWord.pdeg : OpcodeWord.Statement .pdeg := ⟨rfl, rfl, rfl⟩
theorem OpcodeWord.ptrim : OpcodeWord.Statement .ptrim := ⟨rfl, rfl, rfl⟩
theorem OpcodeWord.padd : OpcodeWord.Statement .padd := ⟨rfl, rfl, rfl⟩
theorem OpcodeWord.pmul : OpcodeWord.Statement .pmul := ⟨rfl, rfl, rfl⟩
theorem OpcodeWord.pred : OpcodeWord.Statement .pred := ⟨rfl, rfl, rfl⟩
theorem OpcodeWord.reservedOpc6 : OpcodeWord.Statement .reservedOpc6 := ⟨rfl, rfl, rfl⟩
theorem OpcodeWord.reservedOpc7 : OpcodeWord.Statement .reservedOpc7 := ⟨rfl, rfl, rfl⟩
theorem OpcodeWord.fnew : OpcodeWord.Statement .fnew := ⟨rfl, rfl, rfl⟩
theorem OpcodeWord.fadd : OpcodeWord.Statement .fadd := ⟨rfl, rfl, rfl⟩
theorem OpcodeWord.fmul : OpcodeWord.Statement .fmul := ⟨rfl, rfl, rfl⟩
theorem OpcodeWord.finv : OpcodeWord.Statement .finv := ⟨rfl, rfl, rfl⟩
theorem OpcodeWord.reservedOpcC : OpcodeWord.Statement .reservedOpcC := ⟨rfl, rfl, rfl⟩
theorem OpcodeWord.reservedOpcD : OpcodeWord.Statement .reservedOpcD := ⟨rfl, rfl, rfl⟩
theorem OpcodeWord.reservedOpcE : OpcodeWord.Statement .reservedOpcE := ⟨rfl, rfl, rfl⟩
theorem OpcodeWord.reservedOpcF : OpcodeWord.Statement .reservedOpcF := ⟨rfl, rfl, rfl⟩

end Sys2Proof.Laws
end

