-- ==== Sys2Proof/Laws/Poly.lean ====
section
/-! SUPPORT. The small lemmas of the primitives and of the engine. -/

namespace Sys2Proof

@[simp] theorem isZero_iff (p : BinPoly) : p.isZero = true ↔ p.val = 0 := by simp [BinPoly.isZero]

@[simp] theorem isZero_eq_false (p : BinPoly) : p.isZero = false ↔ p.val ≠ 0 := by simp [BinPoly.isZero]

@[simp] theorem trim_val (p : BinPoly) : p.trim.val = p.val := by
  unfold BinPoly.trim
  split <;> simp_all [BinPoly.empty]

theorem trim_len (p : BinPoly) : p.trim.len = trimmedLen p.val := by
  unfold BinPoly.trim trimmedLen
  split <;> simp_all [BinPoly.empty]

/-- Trimming gives the pair of the value's own length. -/
theorem trim_eq (p : BinPoly) : p.trim = ⟨trimmedLen p.val, p.val⟩ := by
  cases h : p.trim
  have hv := trim_val p
  have hl := trim_len p
  simp_all

@[simp] theorem add_len (a b : BinPoly) : (a.add b).len = max a.len b.len := rfl

@[simp] theorem add_val (a b : BinPoly) : (a.add b).val = a.val ^^^ b.val := rfl

@[simp] theorem clmulBelow_zero (x y : Nat) : clmulBelow x y 0 = 0 := rfl

theorem clmulBelow_succ (x y n : Nat) :
    clmulBelow x y (n + 1) = clmulBelow x y n ^^^ (if x.testBit n then y <<< n else 0) := rfl

theorem multiply_of_empty {a b : BinPoly} (h : a.len = 0 ∨ b.len = 0) : a.multiply b = .empty := by
  simp [BinPoly.multiply, h]

theorem multiply_of_nonempty {a b : BinPoly} (h : ¬ (a.len = 0 ∨ b.len = 0)) :
    a.multiply b = ⟨a.len + b.len - 1, clmul a.val b.val⟩ := by
  simp [BinPoly.multiply, h]

@[simp] theorem divLoop_zero (dm mt : Nat) (qr : Nat × Nat) : divLoop dm mt 0 qr = qr := rfl

/-- A pass of the division loop, where its condition holds. -/
theorem divLoop_pass (dm mt fuel q r : Nat) (h : r ≠ 0 ∧ dm ≤ hibit r) :
    divLoop dm mt (fuel + 1) (q, r) =
      divLoop dm mt fuel (q ||| (1 <<< (hibit r - dm)), r ^^^ (mt <<< (hibit r - dm))) := by
  simp [divLoop, h]

/-- The end of the division loop, where its condition fails. -/
theorem divLoop_end (dm mt fuel q r : Nat) (h : ¬ (r ≠ 0 ∧ dm ≤ hibit r)) :
    divLoop dm mt fuel (q, r) = (q, r) := by
  cases fuel <;> simp [divLoop, h]

/-- `reduce` raises DivisionByZero exactly on a divisor that is zero by value, and else answers the loop's result. -/
theorem reduce_cases (p m : BinPoly) :
    (m.val = 0 ∧ p.reduce m = .error .divisionByZero) ∨
    (m.val ≠ 0 ∧ ∃ q r, divLoop (hibit m.val) m.val (hibit p.val + 1) (0, p.val) = (q, r) ∧
      p.reduce m = .ok ((BinPoly.mk 0 q).trim, ⟨p.len, r⟩)) := by
  by_cases h : m.val = 0
  · exact .inl ⟨h, by simp [BinPoly.reduce, h]⟩
  · have hz : ¬ m.isZero = true := by simpa using h
    refine .inr ⟨h, (divLoop (hibit m.val) m.val (hibit p.val + 1) (0, p.val)).1,
      (divLoop (hibit m.val) m.val (hibit p.val + 1) (0, p.val)).2, rfl, ?_⟩
    rw [BinPoly.reduce, if_neg hz, trim_val]

theorem wf_iff_fits (p : BinPoly) : p.wf = true ↔ p.Fits 16 := by
  have hs : p.val >>> p.len = 0 ↔ p.val < 2 ^ p.len := by
    rw [Nat.shiftRight_eq_div_pow, Nat.div_eq_zero_iff]
    have := Nat.two_pow_pos p.len
    omega
  rw [BinPoly.wf, Bool.and_eq_true, decide_eq_true_eq, beq_iff_eq, hs]
  rfl

namespace Machine

/-- Once, what a step of the engine can answer. -/
theorem engineStep_cases (e : Engine) :
    (e.rCur.val = 0 ∧ e.step = .error .divisionByZero) ∨
    (e.rCur.val ≠ 0 ∧ ∃ q r, e.rPrev.reduce e.rCur = .ok (q, r) ∧
      ((r.val = 0 ∧ e.step = .ok (.done e.sCur (e.n + 1))) ∨
       (r.val ≠ 0 ∧ e.step = .ok (.cont { rPrev := e.rCur, rCur := r, sPrev := e.sCur,
                                          sCur := e.sPrev.add (q.multiply e.sCur), n := e.n + 1 })))) := by
  obtain ⟨h, hr⟩ | ⟨h, q, r, -, hr⟩ := reduce_cases e.rPrev e.rCur
  · exact .inl ⟨h, by simp [Engine.step, hr]⟩
  · refine .inr ⟨h, _, _, hr, ?_⟩
    by_cases hz : r = 0
    · exact .inl ⟨hz, by simp [Engine.step, hr, hz, BinPoly.isZero]⟩
    · exact .inr ⟨hz, by simp [Engine.step, hr, hz, BinPoly.isZero]⟩

@[simp] theorem engineRun_zero (e : Engine) : Engine.run 0 e = .ok e := rfl

theorem engineRun_done {e : Engine} {u : BinPoly} {n : Nat} (h : e.step = .ok (.done u n)) (fuel : Nat) :
    Engine.run fuel e = .ok e := by
  cases fuel <;> simp [Engine.run, h]

theorem engineRun_cont {e e' : Engine} (h : e.step = .ok (.cont e')) (fuel : Nat) :
    Engine.run (fuel + 1) e = Engine.run fuel e' := by
  simp [Engine.run, h]

end Machine

end Sys2Proof
end

