-- ==== Sys2Proof/Laws/Step.lean ====
section
/-! SUPPORT. Once, what a command, the completion step and a step of the machine can do. -/

namespace Sys2Proof.Machine

/-- A command completes by the error tail or by the success tail (R170, section 2 of 40_primitives.md). Only FINV's success
also leaves the engine in a new state. -/
theorem exec_cases (i : Instr) (s : State) :
    (∃ c, exec i s = .next (raiseError c s)) ∨
    (∃ r0 r1 n, exec i s = .next (success r0 r1 n s)) ∨
    (i = .finv ∧ ∃ e : Engine, exec i s = .next (success e.result .empty e.steps (s.setEngine e))) := by
  cases i with
  | pdeg =>
    simp only [exec, execPdeg]
    split
    · exact .inl ⟨_, rfl⟩
    · exact .inr (.inl ⟨_, _, _, rfl⟩)
  | ptrim =>
    simp only [exec, execPtrim]
    split
    · exact .inl ⟨_, rfl⟩
    · exact .inr (.inl ⟨_, _, _, rfl⟩)
  | padd =>
    simp only [exec, execPadd]
    split
    · exact .inl ⟨_, rfl⟩
    · split
      · exact .inl ⟨_, rfl⟩
      · exact .inr (.inl ⟨_, _, _, rfl⟩)
  | pmul =>
    simp only [exec, execPmul]
    split
    · exact .inl ⟨_, rfl⟩
    · split
      · exact .inl ⟨_, rfl⟩
      · split
        · exact .inl ⟨_, rfl⟩
        · exact .inr (.inl ⟨_, _, _, rfl⟩)
  | pred =>
    simp only [exec, execPred]
    split
    · exact .inl ⟨_, rfl⟩
    · split
      · exact .inl ⟨_, rfl⟩
      · split
        · exact .inl ⟨_, rfl⟩
        · exact .inr (.inl ⟨_, _, _, rfl⟩)
  | fnew =>
    simp only [exec, execFnew]
    split
    · exact .inl ⟨_, rfl⟩
    · split
      · exact .inl ⟨_, rfl⟩
      · exact .inr (.inl ⟨_, _, _, rfl⟩)
  | fadd =>
    simp only [exec, execFadd]
    split
    · exact .inl ⟨_, rfl⟩
    · split
      · exact .inl ⟨_, rfl⟩
      · exact .inr (.inl ⟨_, _, _, rfl⟩)
  | fmul =>
    simp only [exec, execFmul]
    split
    · exact .inl ⟨_, rfl⟩
    · split
      · exact .inl ⟨_, rfl⟩
      · split
        · exact .inl ⟨_, rfl⟩
        · exact .inr (.inl ⟨_, _, _, rfl⟩)
  | finv =>
    simp only [exec, execFinv]
    split
    · exact .inl ⟨_, rfl⟩
    · split
      · exact .inl ⟨_, rfl⟩
      · split
        · exact .inl ⟨_, rfl⟩
        · exact .inr (.inr ⟨trivial, _, rfl⟩)
  | reservedOpc0 => exact .inl ⟨_, rfl⟩
  | reservedOpc6 => exact .inl ⟨_, rfl⟩
  | reservedOpc7 => exact .inl ⟨_, rfl⟩
  | reservedOpcC => exact .inl ⟨_, rfl⟩
  | reservedOpcD => exact .inl ⟨_, rfl⟩
  | reservedOpcE => exact .inl ⟨_, rfl⟩
  | reservedOpcF => exact .inl ⟨_, rfl⟩

/-- The completion step runs the decoded instruction, reports an undecodable word, or finds nothing in flight. -/
theorem completionStep_cases (s : State) :
    (s.status.busy = true ∧ ∃ i, decode s.latch.cmd = .ok i ∧ completionStep s = exec i s) ∨
    (s.status.busy = true ∧ (∃ r, decode s.latch.cmd = .error r) ∧
      completionStep s = .next (raiseError .illegalCommand s)) ∨
    (s.status.busy = false ∧ completionStep s = .next s) := by
  cases hb : s.status.busy
  · exact .inr (.inr ⟨rfl, by simp [completionStep, hb]⟩)
  · cases hd : decode s.latch.cmd with
    | ok i => exact .inl ⟨rfl, i, rfl, by simp [completionStep, hb, hd]⟩
    | error r => exact .inr (.inl ⟨rfl, ⟨r, rfl⟩, by simp [completionStep, hb, hd]⟩)

theorem step_of_core {s : State} (h : s.currentTurn = .core) : step s = completionStep s.popTurn := by simp [step, h]

theorem step_of_host {s : State} (h : s.currentTurn = .host) : step s = .next (hostTurn s.popTurn) := by simp [step, h]

theorem step_of_reset {s : State} (h : s.currentTurn = .reset) : step s = .next (resetEvent s.popTurn) := by
  simp [step, h]

/-- The turns left out of a completion: it neither reads nor writes them. -/
theorem completionStep_busy_next {s : State} (hb : s.status.busy = true) :
    ∃ t, completionStep s = .next t ∧ t.status.busy = false ∧ t.sched = s.sched := by
  obtain ⟨-, i, -, h⟩ | ⟨-, -, h⟩ | ⟨hn, -⟩ := completionStep_cases s
  · obtain ⟨c, hc⟩ | ⟨r0, r1, n, hc⟩ | ⟨-, e, hc⟩ := exec_cases i s
    · exact ⟨_, h.trans hc, rfl, rfl⟩
    · exact ⟨_, h.trans hc, rfl, rfl⟩
    · exact ⟨_, h.trans hc, rfl, rfl⟩
  · exact ⟨_, h, rfl, rfl⟩
  · simp [hb] at hn

end Sys2Proof.Machine
end

