-- ==== Sys2Proof/Tests/Slice0.lean ====
section
/-! SUPPORT. Small tests: ill-formed terms are refused, words decode as the spec's encodings say, one step per test, and a
witness for the hypotheses of each statement. Expected words are those of 95_test_vectors.md. -/

namespace Sys2Proof.Tests

open Sys2Proof.Machine

/-! ## Well-formedness -/

/-- A jump to a label that no statement declares is ill formed. -/
theorem test_undeclared_label_refused : hostProgramWellFormed [.label 0, .jmp 1] = false := by decide

/-- A label declared twice is ill formed. -/
theorem test_duplicate_label_refused : hostProgramWellFormed [.label 0, .label 0, .jmp 0] = false := by decide

/-- The expansion of `wait` (R83) is well formed. -/
theorem test_wait_wellFormed : hostProgramWellFormed (pseudoWait 3) = true := by decide

/-- Every command is well formed: there is no field to check (R80). -/
theorem test_command_wellFormed : Instr.wellFormed .finv = true := by decide

/-- `run op, A, B` of R83: its bus transactions in order. -/
theorem test_run_expansion : pseudoRun .fmul (.word 5) .last 7 =
    [.wr .opa (.word 5), .wr .opb .last, .wr .cmd (.word 0x0000000A#32), .label 7, .rd .status, .jbit 0 7, .rd .res0,
     .rd .res1] := by decide

/-- `run1 op, A` of R83. -/
theorem test_run1_expansion : pseudoRun1 .finv (.word 5) 7 =
    [.wr .opa (.word 5), .wr .cmd (.word 0x0000000B#32), .label 7, .rd .status, .jbit 0 7, .rd .res0] := by decide

/-! ## Decoding: each row's word, bit by bit (R76) -/

theorem test_decode_reservedOpc0 : decode 0b00000000000000000000000000000000#32 = .ok .reservedOpc0 := by decide
theorem test_decode_pdeg : decode 0b00000000000000000000000000000001#32 = .ok .pdeg := by decide
theorem test_decode_ptrim : decode 0b00000000000000000000000000000010#32 = .ok .ptrim := by decide
theorem test_decode_padd : decode 0b00000000000000000000000000000011#32 = .ok .padd := by decide
theorem test_decode_pmul : decode 0b00000000000000000000000000000100#32 = .ok .pmul := by decide
theorem test_decode_pred : decode 0b00000000000000000000000000000101#32 = .ok .pred := by decide
theorem test_decode_reservedOpc6 : decode 0b00000000000000000000000000000110#32 = .ok .reservedOpc6 := by decide
theorem test_decode_reservedOpc7 : decode 0b00000000000000000000000000000111#32 = .ok .reservedOpc7 := by decide
theorem test_decode_fnew : decode 0b00000000000000000000000000001000#32 = .ok .fnew := by decide
theorem test_decode_fadd : decode 0b00000000000000000000000000001001#32 = .ok .fadd := by decide
theorem test_decode_fmul : decode 0b00000000000000000000000000001010#32 = .ok .fmul := by decide
theorem test_decode_finv : decode 0b00000000000000000000000000001011#32 = .ok .finv := by decide
theorem test_decode_reservedOpcC : decode 0b00000000000000000000000000001100#32 = .ok .reservedOpcC := by decide
theorem test_decode_reservedOpcD : decode 0b00000000000000000000000000001101#32 = .ok .reservedOpcD := by decide
theorem test_decode_reservedOpcE : decode 0b00000000000000000000000000001110#32 = .ok .reservedOpcE := by decide
theorem test_decode_reservedOpcF : decode 0b00000000000000000000000000001111#32 = .ok .reservedOpcF := by decide

/-- A legal OPC with a bit of MBZ set is rejected by name (R78; V-ILL-1B, V-ILL-80000001). -/
theorem test_decode_rejects_mbz : decode 0x0000001B#32 = .error (.mustBeZero 1) := by decide

theorem test_decode_rejects_top_bit : decode 0x80000001#32 = .error (.mustBeZero 0x8000000) := by decide

theorem test_decodeTableWord : decodeTableWord 32 0x0000000A = some .fmul := by decide

theorem test_decodeTableWord_rejects : decodeTableWord 32 0x00000010 = none := by decide

/-! ## Formats and literals -/

/-- The examples of R71. -/
theorem test_litSeq : litSeq [false, true, false, true, false, false, true, true] = 0x00080053#32 := by decide

theorem test_litSeq_mod : litSeq Config.MOD.toSeq = 0x0009011B#32 := by decide

theorem test_litFe : litFe 0x53 = 0x00070053#32 ∧ litFe 0 = 0#32 := by decide

/-- The example of R135. -/
theorem test_display : (BinPoly.mk 7 0x53).display = "x^6 + x^4 + x^1 + 1" := by decide

/-- The reset STATUS word (R26). -/
theorem test_status_reset_word : State.reset.status.toWord = 0x00000020#32 := by decide

/-- The malformed examples V-PDEG-6 and V-PDEG-7, and the longest well-formed operand (R72). -/
theorem test_wf : (BinPoly.mk 3 8).wf = false ∧ (BinPoly.mk 17 0).wf = false ∧ (BinPoly.mk 16 0xFFFF).wf = true := by decide

/-- The three refused cases of R73. -/
theorem test_canon8 : (BinPoly.mk 3 1).canon8 = false ∧ (BinPoly.mk 1 0).canon8 = false ∧
    (BinPoly.mk 9 0x100).canon8 = false ∧ (BinPoly.mk 8 0xCA).canon8 = true := by decide

/-! ## One command a test, from reset -/

/-- Reset, with the command word `c` in flight on the operands `a` and `b`, and the core to move. -/
def inFlight (c : Word) (a b : PolyReg) : State :=
  { State.reset with opa := a, opb := b, latch := { cmd := c, la := a, lb := b },
                     status := { Status.reset with busy := true }, sched := [.core] }

/-- RES0, RES1 and STATUS as the host reads them after a step. -/
def readsAfter : Host.Outcome State Fault Refusal → Option (Word × Word × Word)
  | .next t => some (hostRead 3 t, hostRead 4 t, hostRead 5 t)
  | .fault _ => none
  | .refused _ => none

theorem test_V_PDEG_5 : readsAfter (step (inFlight 0x00000001#32 0x00108000 0x00000000)) = some (0x00108000#32, 0x00000000#32, 0x000007C0#32) := by decide
theorem test_V_PDEG_7 : readsAfter (step (inFlight 0x00000001#32 0x00110000 0x001FFFFF)) = some (0x00000000#32, 0x00000000#32, 0x0000002A#32) := by decide
theorem test_V_PTRIM_1 : readsAfter (step (inFlight 0x00000002#32 0x00050005 0x00000000)) = some (0x00030005#32, 0x00000000#32, 0x00000140#32) := by decide
theorem test_V_PTRIM_2 : readsAfter (step (inFlight 0x00000002#32 0x00070000 0x00000000)) = some (0x00000000#32, 0x00000000#32, 0x00000020#32) := by decide
theorem test_V_PADD_5 : readsAfter (step (inFlight 0x00000003#32 0x00100001 0x00020003)) = some (0x00100002#32, 0x00000000#32, 0x000000C0#32) := by decide
theorem test_V_PADD_6 : readsAfter (step (inFlight 0x00000003#32 0x00030005 0x00020004)) = some (0x00000000#32, 0x00000000#32, 0x0000002A#32) := by decide
theorem test_V_PMUL_2 : readsAfter (step (inFlight 0x00000004#32 0x00080053 0x000800CA)) = some (0x000F3F7E#32, 0x00000000#32, 0x000006C0#32) := by decide
theorem test_V_PMUL_6 : readsAfter (step (inFlight 0x00000004#32 0x00090001 0x00090001)) = some (0x00000000#32, 0x00000000#32, 0x0000003A#32) := by decide
theorem test_V_PRED_3 : readsAfter (step (inFlight 0x00000005#32 0x000F3F7E 0x0009011B)) = some (0x0006003D#32, 0x000F0001#32, 0x000002C0#32) := by decide
theorem test_V_PRED_9 : readsAfter (step (inFlight 0x00000005#32 0x000A0200 0x0009001B)) = some (0x00060038#32, 0x000A0008#32, 0x000002C0#32) := by decide
theorem test_V_FNEW_1 : readsAfter (step (inFlight 0x00000008#32 0x00080053 0x00000000)) = some (0x00070053#32, 0x00000000#32, 0x00000340#32) := by decide
theorem test_V_FNEW_5 : readsAfter (step (inFlight 0x00000008#32 0x001F0000 0x00000000)) = some (0x00000000#32, 0x00000000#32, 0x0000002E#32) := by decide
theorem test_V_FADD_4 : readsAfter (step (inFlight 0x00000009#32 0x000800C0 0x00080080)) = some (0x00070040#32, 0x00000000#32, 0x00000340#32) := by decide
theorem test_V_FADD_6 : readsAfter (step (inFlight 0x00000009#32 0x00070053 0x00010000)) = some (0x00000000#32, 0x00000000#32, 0x0000002A#32) := by decide
theorem test_V_FMUL_2 : readsAfter (step (inFlight 0x0000000A#32 0x00070057 0x00080083)) = some (0x000800C1#32, 0x00000000#32, 0x000003C0#32) := by decide
theorem test_V_FMUL_6 : readsAfter (step (inFlight 0x0000000A#32 0x00080080 0x00080080)) = some (0x0008009A#32, 0x00000000#32, 0x000003C0#32) := by decide
theorem test_V_FINV_4 : readsAfter (step (inFlight 0x0000000B#32 0x000800C4 0x00000000)) = some (0x000800DA#32, 0x00000000#32, 0x000093C0#32) := by decide
theorem test_V_FINV_8 : readsAfter (step (inFlight 0x0000000B#32 0x00000000 0x00000000)) = some (0x00000000#32, 0x00000000#32, 0x00000036#32) := by decide
theorem test_V_ILL_0 : readsAfter (step (inFlight 0x00000000#32 0x00110000 0x00110000)) = some (0x00000000#32, 0x00000000#32, 0x00000026#32) := by decide
theorem test_V_ILL_6 : readsAfter (step (inFlight 0x00000006#32 0x00110000 0x00110000)) = some (0x00000000#32, 0x00000000#32, 0x00000026#32) := by decide
theorem test_V_ILL_7 : readsAfter (step (inFlight 0x00000007#32 0x00110000 0x00110000)) = some (0x00000000#32, 0x00000000#32, 0x00000026#32) := by decide
theorem test_V_ILL_C : readsAfter (step (inFlight 0x0000000C#32 0x00110000 0x00110000)) = some (0x00000000#32, 0x00000000#32, 0x00000026#32) := by decide
theorem test_V_ILL_F : readsAfter (step (inFlight 0x0000000F#32 0x00110000 0x00110000)) = some (0x00000000#32, 0x00000000#32, 0x00000026#32) := by decide
theorem test_V_ILL_80000001 : readsAfter (step (inFlight 0x80000001#32 0x00110000 0x00110000)) = some (0x00000000#32, 0x00000000#32, 0x00000026#32) := by decide

/-- OPC 0xD behaves as the other reserved opcodes do (R78). -/
theorem test_ILL_D : readsAfter (step (inFlight 0x0000000D#32 0x00110000 0x00110000)) = some (0#32, 0#32, 0x00000026#32) := by decide

/-- OPC 0xE behaves as the other reserved opcodes do (R78). -/
theorem test_ILL_E : readsAfter (step (inFlight 0x0000000E#32 0x00110000 0x00110000)) = some (0#32, 0#32, 0x00000026#32) := by decide

/-! ## Host port and turns -/

/-- V-PORT-2. -/
theorem test_operand_write_masks : hostRead 0 (hostWrite 0 0xFFFFFFFF#32 State.reset) = 0x001FFFFF#32 ∧
    hostRead 1 (hostWrite 1 0x12345678#32 State.reset) = 0x00145678#32 := by decide

/-- V-PORT-3: writes to indices 3 to 7 are ignored. -/
theorem test_readonly_writes_ignored : hostWrite 5 0xFF#32 State.reset = State.reset ∧
    hostWrite 7 1#32 State.reset = State.reset := by decide

/-- V-PORT-4: acceptance sets BUSY, a second CMD write sets LOST and leaves the latch. -/
theorem test_busy_write_is_dropped :
    let s := hostWrite 2 0xB#32 (hostWrite 0 0x00070053#32 State.reset)
    hostRead 5 s = 0x00000021#32 ∧ hostRead 5 (hostWrite 2 0xA#32 s) = 0x00010021#32 ∧
      (hostWrite 2 0xA#32 s).latch = s.latch := by decide

/-- V-PORT-6: a reset while BUSY discards the command. -/
theorem test_reset_while_busy : resetEvent (inFlight 0xB#32 2 0) = { State.reset with sched := [.core] } := by decide

/-- A host running `rd STATUS` from the reset state reads 0x00000020. -/
theorem test_host_reads_status :
    (hostTurn { State.reset with host := { HostAgent.idle with prog := [.rd .status] } }).host.trace = [0x00000020#32] := by
  decide

/-- A word placed by `withFetchWord` is the one the next step runs. -/
theorem test_withFetchWord : readsAfter (step (State.reset.withFetchWord 32 0x0000000B)) =
    some (0#32, 0#32, 0x00000036#32) := by decide

/-! ## Witnesses: states and operands that meet the hypotheses of the statements -/

/-- The host agent about to take statement `st`, with command `c` in flight or not. -/
def hostAt (st : HostStmt) (busy : Bool) : State :=
  { inFlight 0x1#32 0x00010001 0 with
    status := { Status.reset with busy := busy }, sched := [.host],
    host := { HostAgent.idle with prog := [st, .label 4, .label 4], last := 1 } }

/-- DecodingIsTotalAndNineWordsAreLegal, IllegalWordsCompleteWithIllegalCommand: the lowest and the highest bit of MBZ. -/
theorem witness_mbz : (0x00000010#32).extractLsb' 4 28 ≠ 0 ∧ (0x80000001#32).extractLsb' 4 28 ≠ 0 := by decide

/-- PolyWordHoldsAPair: the widest pair a word holds, and the top bits of its fields. -/
theorem witness_polyWord : (BinPoly.mk 31 0xFFFF).len < 32 ∧ (BinPoly.mk 31 0xFFFF).val < 2 ^ 16 ∧ (15 < 16) ∧ (4 < 5) := by
  decide

/-- SequencesAndPairsCorrespond, TrimOnSequences, AddOnSequences, DegreesAddUnderMultiplication: pairs, empty, zero, full. -/
theorem witness_pairs : BinPoly.empty.Pair ∧ (BinPoly.mk 3 0).Pair ∧ (BinPoly.mk 3 7).Pair ∧
    (BinPoly.mk 3 7).degree = some 2 ∧ (BinPoly.mk 5 1).degree = some 0 := by decide

/-- ResetEventDiscardsTheCommand: the reset input, and the host's own statement, with a command in flight. -/
theorem witness_resets : ({ hostAt .reset true with sched := [.reset] } : State).resets ∧ (hostAt .reset true).resets := by
  decide

/-- HostWriteFollowsR52: idle and busy, and the first and last ignored index. -/
theorem witness_hostWrite : State.reset.status.busy = false ∧ (inFlight 0 0 0).status.busy = true ∧
    3 ≤ (3 : RegIndex).toNat ∧ 3 ≤ (7 : RegIndex).toNat := by decide

/-- CoreTurnRunsTheDecodedCommand. -/
theorem witness_coreTurn : (inFlight 0xA#32 0 0).completes ∧ decode (inFlight 0xA#32 0 0).latch.cmd = .ok .fmul := by decide

/-- IdleCoreDoesNothing. -/
theorem witness_idleCore : ({ State.reset with sched := [.core] } : State).currentTurn = .core ∧
    ({ State.reset with sched := [.core] } : State).status.busy = false := by decide

/-- HostStatementsFollowR82: each clause. -/
theorem witness_hostStatements :
    ((hostAt (.wr .opa (.word 5)) false).currentTurn = .host ∧
      (hostAt (.wr .opa (.word 5)) false).currentStmt = some (.wr .opa (.word 5))) ∧
    (hostAt (.wr .cmd .last) true).currentStmt = some (.wr .cmd .last) ∧
    (hostAt (.rd .status) true).currentStmt = some (.rd .status) ∧
    (hostAt (.label 9) false).currentStmt = some (.label 9) ∧
    ((hostAt (.jbit 31 4) false).currentStmt = some (.jbit 31 4) ∧
      (hostAt (.jbit 31 4) false).host.last.getLsbD (31 : Fin 32) = false) ∧
    ((hostAt (.jbit 0 4) false).currentStmt = some (.jbit 0 4) ∧
      (hostAt (.jbit 0 4) false).host.last.getLsbD (0 : Fin 32) = true ∧
      (hostAt (.jbit 0 4) false).host.prog[1]? = some (.label 4) ∧
      ∀ q < 1, (hostAt (.jbit 0 4) false).host.prog[q]? ≠ some (.label 4)) ∧
    ((hostAt (.jmp 4) false).currentStmt = some (.jmp 4) ∧ (hostAt (.jmp 4) false).host.prog[1]? = some (.label 4) ∧
      ∀ q < 1, (hostAt (.jmp 4) false).host.prog[q]? ≠ some (.label 4)) ∧
    (hostAt .halt false).currentStmt = some .halt ∧
    (State.reset.currentTurn = .host ∧ State.reset.currentStmt = none) := by decide

/-- HostTurnWhileBusyKeepsResults: a dropped CMD write. -/
theorem witness_hostTurnWhileBusy :
    (hostAt (.wr .cmd .last) true).status.busy = true ∧ (hostAt (.wr .cmd .last) true).currentTurn = .host ∧
    (hostAt (.wr .cmd .last) true).currentStmt ≠ some .reset ∧ ∃ t, step (hostAt (.wr .cmd .last) true) = .next t :=
  ⟨by decide, by decide, by decide, _, rfl⟩

/-- CommandsStartOnlyByAcceptance, and the falling clause of LostRecordsDroppedWrites: an accepted CMD write. -/
theorem witness_acceptance :
    ∃ t, step { hostAt (.wr .cmd (.word 7)) false with status := { Status.reset with lost := true } } = .next t ∧
      ¬ ({ hostAt (.wr .cmd (.word 7)) false with status := { Status.reset with lost := true } } : State).resets ∧
      t.status.busy = true ∧ t.latch ≠ (hostAt (.wr .cmd (.word 7)) false).latch ∧ t.status.lost = false :=
  ⟨_, rfl, by decide, by decide, by decide, by decide⟩

/-- The rising clause of LostRecordsDroppedWrites. -/
theorem witness_lostRises : ∃ t, step (hostAt (.wr .cmd .last) true) = .next t ∧ ¬ (hostAt (.wr .cmd .last) true).resets ∧
    (hostAt (.wr .cmd .last) true).status.lost = false ∧ t.status.lost = true :=
  ⟨_, rfl, by decide, by decide, by decide⟩

/-- RegistersHaveOneWriter: each clause. -/
theorem witness_registerWriters :
    (∃ t, step (hostAt (.wr .opa (.word 5)) true) = .next t ∧ ¬ (hostAt (.wr .opa (.word 5)) true).resets ∧
      t.opa ≠ (hostAt (.wr .opa (.word 5)) true).opa) ∧
    (∃ t, step (hostAt (.wr .opb (.word 5)) true) = .next t ∧ ¬ (hostAt (.wr .opb (.word 5)) true).resets ∧
      t.opb ≠ (hostAt (.wr .opb (.word 5)) true).opb) ∧
    (∃ t, step (inFlight 0x5#32 0x000F3F7E 0x0009011B) = .next t ∧ ¬ (inFlight 0x5#32 0x000F3F7E 0x0009011B).resets ∧
      t.res0 ≠ 0 ∧ t.res1 ≠ 0) :=
  ⟨⟨_, rfl, by decide, by decide⟩, ⟨_, rfl, by decide, by decide⟩, ⟨_, rfl, by decide, by decide, by decide⟩⟩

/-- PdegCopiesAndMeasures, PtrimLeavesNoLeadingZero: the largest well-formed operand, and the two ways to be malformed at
their boundaries. -/
theorem witness_oneOperand : (inFlight 1#32 0x0010FFFF 0).operandA.Fits 16 ∧ ¬ (inFlight 1#32 0x00110000 0).operandA.Fits 16 ∧
    ¬ (inFlight 1#32 0x00030008 0).operandA.Fits 16 ∧ (inFlight 1#32 0x00050000 0).operandA.Fits 16 := by decide

/-- PaddXorsCoefficients, PmulMultipliesOrOverflows, PredDividesOrReportsZero: each clause, at the boundary lengths. -/
theorem witness_twoOperands :
    (let s := inFlight 4#32 0x00080080 0x00090100
     s.operandA.Fits 16 ∧ s.operandB.Fits 16 ∧ s.operandA.len + s.operandB.len - 1 ≤ 16 ∧ s.operandB.val ≠ 0) ∧
    (let s := inFlight 4#32 0x00000000 0x0010FFFF
     s.operandA.Fits 16 ∧ s.operandB.Fits 16 ∧ s.operandA.len = 0) ∧
    (let s := inFlight 4#32 0x00090001 0x00090001
     s.operandA.Fits 16 ∧ s.operandB.Fits 16 ∧ 0 < s.operandA.len ∧ 0 < s.operandB.len ∧
      16 < s.operandA.len + s.operandB.len - 1) ∧
    (let s := inFlight 5#32 0x00030005 0x00030000
     s.operandA.Fits 16 ∧ s.operandB.Fits 16 ∧ s.operandB.val = 0) ∧
    ¬ (inFlight 3#32 0x00030005 0x00020004).operandB.Fits 16 ∧ ¬ (inFlight 3#32 0x00110000 0).operandA.Fits 16 := by decide

/-- FnewConstructsAnElement: each clause, at LEN 8 and 9. -/
theorem witness_fnew : (inFlight 8#32 0x000800FF 0).operandA.Fits 8 ∧ 8 < (inFlight 8#32 0x00090001 0).operandA.len ∧
    (inFlight 8#32 0x00080100 0).operandA.len ≤ 8 ∧ ¬ (inFlight 8#32 0x00080100 0).operandA.Pair := by decide

/-- FaddXorsElements, FmulReducesTheProduct, FinvInvertsOrReportsNoInverse, FinvIterationCounts: elements at both ends. -/
theorem witness_elements :
    (0xFF < 256 ∧ (inFlight 0xA#32 0x000800FF 0x00010001).operandA = fieldElement 0xFF ∧
      (inFlight 0xA#32 0x000800FF 0x00010001).operandB = fieldElement 1) ∧
    (inFlight 0xB#32 0 0).operandA = fieldElement 0 ∧ (inFlight 0xB#32 0 0).operandA = BinPoly.empty := by decide

/-- An operand that is no element: longer than 8, and a zero that is not empty. -/
theorem witness_notElement : ¬ (inFlight 0xA#32 0x00010000 0).operandA.IsElement ∧
    ¬ (inFlight 0xA#32 0x00010001 0x00090100).operandB.IsElement := by
  constructor
  · rintro ⟨v, -, hv⟩
    have hval : v = 0 := (congrArg BinPoly.val hv).symm.trans (by decide)
    subst hval
    exact absurd hv (by decide)
  · rintro ⟨v, hlt, hv⟩
    have hval : v = 0x100 := (congrArg BinPoly.val hv).symm.trans (by decide)
    omega

/-- A field element as the field statements take one: the least, the greatest and zero. -/
theorem witness_isElement : (fieldElement 1).IsElement ∧ (fieldElement 0xFF).IsElement ∧ BinPoly.empty.IsElement ∧
    (fieldElement 0xFF).val ≠ 0 :=
  ⟨⟨1, by decide, rfl⟩, ⟨0xFF, by decide, rfl⟩, ⟨0, by decide, by decide⟩, by decide⟩

/-- FieldMultiplicationDistributes, FieldMultiplicationIsAssociative: products of elements. -/
theorem witness_products : (fieldElement 0x57).fmul (fieldElement 0x83) = .ok (fieldElement 0xC1) ∧
    (fieldElement 0x83).fmul (fieldElement 0x02) = .ok (fieldElement 0x1D) ∧
    (fieldElement 0x57).fmul (fieldElement 0x02) = .ok (fieldElement 0xAE) := by decide

/-- IllegalWordsCompleteWithIllegalCommand: a reserved OPC, and a legal OPC under a bit of MBZ. -/
theorem witness_illegalWord : (inFlight 0x6#32 0 0).completes ∧ isIllegal (inFlight 0x6#32 0 0).latch.cmd = true ∧
    (inFlight 0x1B#32 0 0).completes ∧
    isIllegal (inFlight 0x1B#32 0 0).latch.cmd = true := by decide

/-- EachErrorHasItsCause, ErrorsArePrecise: a completion with each error code. -/
theorem witness_errors :
    (∃ t, exec .reservedOpcF (inFlight 0 0 0) = .next t ∧ t.status.ecode = 1 ∧ t.status.err = true) ∧
    (∃ t, exec .pdeg (inFlight 0 0x00110000 0) = .next t ∧ t.status.ecode = 2) ∧
    (∃ t, exec .padd (inFlight 0 0x00030005 0x00020004) = .next t ∧ t.status.ecode = 2) ∧
    (∃ t, exec .fnew (inFlight 0 0x00080100 0) = .next t ∧ t.status.ecode = 2) ∧
    (∃ t, exec .fadd (inFlight 0 0x00070053 0x00010000) = .next t ∧ t.status.ecode = 2) ∧
    (∃ t, exec .finv (inFlight 0 0x00080053 0) = .next t ∧ t.status.ecode = 2) ∧
    (∃ t, exec .fnew (inFlight 0 0x00090001 0) = .next t ∧ t.status.ecode = 3) ∧
    (∃ t, exec .pred (inFlight 0 0x00030005 0x00030000) = .next t ∧ t.status.ecode = 4) ∧
    (∃ t, exec .finv (inFlight 0 0 0) = .next t ∧ t.status.ecode = 5) ∧
    (∃ t, exec .pmul (inFlight 0 0x00090001 0x00090001) = .next t ∧ t.status.ecode = 6) :=
  ⟨⟨_, rfl, by decide, by decide⟩, ⟨_, rfl, by decide⟩, ⟨_, rfl, by decide⟩, ⟨_, rfl, by decide⟩, ⟨_, rfl, by decide⟩,
    ⟨_, rfl, by decide⟩, ⟨_, rfl, by decide⟩, ⟨_, rfl, by decide⟩, ⟨_, rfl, by decide⟩, ⟨_, rfl, by decide⟩⟩

/-- CommandsLeaveTheRestAlone, SecondaryResultsAreZeroElsewhere, ResultsAreWellFormed, FlagsDescribeRes0: completions
without error, with a zero and a nonzero RES0. -/
theorem witness_successes :
    (∃ t, exec .ptrim (inFlight 0 0x00070000 0) = .next t ∧ t.status.err = false ∧ t.status.degv = false) ∧
    (∃ t, exec .pdeg (inFlight 0 0x00108000 0) = .next t ∧ t.status.err = false ∧ t.status.degv = true) ∧
    (∃ t, exec .pred (inFlight 0 0x000F3F7E 0x0009011B) = .next t ∧ t.status.err = false) ∧
    (∃ t, exec .fmul (inFlight 0 0x00070053 0x000800CA) = .next t ∧ t.status.err = false) ∧
    (∃ t, exec .finv (inFlight 0 0x000800C4 0) = .next t ∧ t.status.err = false) :=
  ⟨⟨_, rfl, by decide, by decide⟩, ⟨_, rfl, by decide, by decide⟩, ⟨_, rfl, by decide⟩, ⟨_, rfl, by decide⟩,
    ⟨_, rfl, by decide⟩⟩

/-- EveryStepKeepsTheStateSound: a sound state that is not the reset state, and its step. -/
theorem witness_sound : (inFlight 0xB#32 0x000800DA 0x001FFFFF).Inv ∧
    ∃ t, step (inFlight 0xB#32 0x000800DA 0x001FFFFF) = .next t :=
  ⟨⟨by decide, by decide, by decide, by decide, .inl (by decide), by decide⟩, _, rfl⟩

/-- LatencyDoesNotChangeTheOutcome, EveryAcceptedCommandCompletesUnlessReset: a command in flight, with no reset to come. -/
theorem witness_busy : (inFlight 0x3#32 0x00030005 0x00020003).status.busy = true ∧
    Turn.reset ∉ (inFlight 0x3#32 0x00030005 0x00020003).sched ∧
    HostStmt.reset ∉ (inFlight 0x3#32 0x00030005 0x00020003).host.prog ∧
    ∃ t, completionStep (inFlight 0x3#32 0x00030005 0x00020003) = .next t :=
  ⟨by decide, by decide, by decide, _, rfl⟩

/-- EveryAcceptedCommandCompletesUnlessReset: a command in flight that the reset input, or the host, discards. -/
theorem witness_busy_reset : ({ inFlight 0x3#32 0 0 with sched := [.reset, .core] } : State).status.busy = true ∧
    (hostAt .reset true).status.busy = true ∧ HostStmt.reset ∈ (hostAt .reset true).host.prog := by decide

/-- DivisionIdentityIsUnique: the divisor of degree 0, with the only remainder there is. -/
theorem witness_division : (BinPoly.mk 1 1).val ≠ 0 ∧ 0x16 = clmul 0x16 (BinPoly.mk 1 1).val ^^^ 0 := by decide

/-- ModulusIsIrreducible: MOD as a product. -/
theorem witness_modulus : clmul 0x11B 1 = Config.MOD.val ∧ clmul 1 0x11B = Config.MOD.val := by decide

/-- EngineDegreeFalls, EngineReachesDone, EngineFitsNineCoefficients: the first step on 0x53 goes on (V-SRC-1, step 1). -/
theorem witness_engine : (Engine.init (fieldElement 0x53)).rCur.val ≠ 0 ∧
    (Engine.init (fieldElement 0x53)).step =
      .ok (.cont { rPrev := Config.MOD, rCur := fieldElement 0x53, sPrev := .empty, sCur := .one, n := 1 }) ∧
    hibit (Engine.init (fieldElement 0x53)).rCur.val ≤ 8 ∧
    Engine.run 0 (Engine.init (fieldElement 0x53)) = .ok (Engine.init (fieldElement 0x53)) := by decide

/-- EngineKeepsTheBezoutIdentity: the state at `E0(1)`, with the multiples of MOD that show it. -/
theorem witness_bezout : Engine.Bezout .one (Engine.init .one) :=
  ⟨by decide, by decide, by decide, ⟨0, by decide⟩, ⟨1, by decide⟩⟩

end Sys2Proof.Tests
end

/-! Sequences and pairs (R7): `BinPoly.toSeq` and `BinPoly.ofSeq` peel off the leading coefficient, the one as the top bit
of the value, the other as the head of the list. -/
section

namespace Sys2Proof

@[simp] theorem toSeq_len_zero (v : Nat) : (BinPoly.mk 0 v).toSeq = [] := rfl

/-- The sequence's head is the coefficient of the highest power, its tail the sequence of the pair one shorter. -/
theorem toSeq_len_succ (n v : Nat) : (BinPoly.mk (n + 1) v).toSeq = v.testBit n :: (BinPoly.mk n v).toSeq := by
  simp only [BinPoly.toSeq, List.range_succ_eq_map, List.map_cons, List.map_map, Function.comp_def]
  congr 1
  refine List.map_congr_left fun j _ => ?_
  rw [show n + 1 - 1 - j.succ = n - 1 - j by omega]

/-- A sequence of length `n` reads bits `n-1` down to 0 of the value and no other. -/
theorem toSeq_congr {n v w : Nat} (h : ∀ i < n, v.testBit i = w.testBit i) :
    (BinPoly.mk n v).toSeq = (BinPoly.mk n w).toSeq := by
  induction n with
  | zero => simp
  | succ n ih => rw [toSeq_len_succ, toSeq_len_succ, h n n.lt_succ_self, ih fun i hi => h i (by omega)]

@[simp] theorem ofSeq_nil : BinPoly.ofSeq [] = ⟨0, 0⟩ := rfl

/-- The head of a sequence of length `n + 1` weighs `2^n`. -/
theorem ofSeq_cons (b : Bool) (s : List Bool) :
    BinPoly.ofSeq (b :: s) = ⟨s.length + 1, 2 ^ s.length * b.toNat + (BinPoly.ofSeq s).val⟩ := by
  cases b <;> simp [BinPoly.ofSeq]

@[simp] theorem ofSeq_len (s : List Bool) : (BinPoly.ofSeq s).len = s.length := by
  cases s <;> simp [ofSeq_cons]

theorem ofSeq_val_lt (s : List Bool) : (BinPoly.ofSeq s).val < 2 ^ s.length := by
  induction s with
  | nil => simp
  | cons b s ih =>
    have hb : 2 ^ s.length * b.toNat ≤ 2 ^ s.length * 1 := Nat.mul_le_mul_left _ b.toNat_le
    simp only [ofSeq_cons, List.length_cons, Nat.pow_succ]
    omega

theorem ofSeq_pair (s : List Bool) : (BinPoly.ofSeq s).Pair := by
  simpa using ofSeq_val_lt s

/-- From a pair to its sequence and back, the bits of the value at and above the length are lost. -/
theorem ofSeq_toSeq_mk (n v : Nat) : BinPoly.ofSeq (BinPoly.mk n v).toSeq = ⟨n, v % 2 ^ n⟩ := by
  induction n with
  | zero => simp [Nat.mod_one]
  | succ n ih =>
    have hlen : (BinPoly.mk n v).toSeq.length = n := by rw [← ofSeq_len, ih]
    rw [toSeq_len_succ, ofSeq_cons, hlen, ih, Nat.mod_pow_succ, Nat.toNat_testBit, Nat.add_comm (v % 2 ^ n)]

theorem ofSeq_toSeq {p : BinPoly} (h : p.Pair) : BinPoly.ofSeq p.toSeq = p := by
  rw [ofSeq_toSeq_mk, Nat.mod_eq_of_lt h]

theorem toSeq_ofSeq (s : List Bool) : (BinPoly.ofSeq s).toSeq = s := by
  induction s with
  | nil => simp
  | cons b s ih =>
    have hbit := Nat.testBit_two_pow_mul_add b.toNat (ofSeq_val_lt s)
    have head : (2 ^ s.length * b.toNat + (BinPoly.ofSeq s).val).testBit s.length = b := by
      rw [hbit]
      cases b <;> simp
    have tail : (BinPoly.mk s.length (2 ^ s.length * b.toNat + (BinPoly.ofSeq s).val)).toSeq = s :=
      calc (BinPoly.mk s.length (2 ^ s.length * b.toNat + (BinPoly.ofSeq s).val)).toSeq
        _ = (BinPoly.mk s.length (BinPoly.ofSeq s).val).toSeq :=
            toSeq_congr fun i hi => by rw [hbit, if_pos hi]
        _ = (BinPoly.ofSeq s).toSeq := by rw [← ofSeq_len s]
        _ = s := ih
    rw [ofSeq_cons, toSeq_len_succ, head, tail]

/-- Settles O5: each of the two maps peels off the leading coefficient, so induction on the length gives both round
trips, and the weights of the coefficients below the head sum to less than the head's. -/
theorem sequencesAndPairsCorrespond : Obligations.SequencesAndPairsCorrespond :=
  ⟨fun _ h => ofSeq_toSeq h, fun s => ⟨toSeq_ofSeq s, ofSeq_pair s⟩⟩

end Sys2Proof

end

/-! What a command does to a state: `CommandCompletion` lists the ways a command can end,
`CommandFrame` says what every one of them leaves alone. -/
section

namespace Sys2Proof.Machine

/-- The state `t` in which command `i` ends: the error tail, or a success that writes RES1 for PRED alone and ITER for
FINV alone (section 2 of 40_primitives.md). -/
inductive CommandCompletion (i : Instr) (s : State) : State → Prop
  | error (c : ErrCode) : CommandCompletion i s (raiseError c s)
  | single (r : BinPoly) : CommandCompletion i s (success r .empty 0 s)
  | division (q r : BinPoly) : i = .pred → CommandCompletion i s (success q r 0 s)
  | inverse (e : Engine) : i = .finv → CommandCompletion i s (success e.result .empty e.steps (s.setEngine e))

section completions

variable {i : Instr} {s t : State}

theorem completion_of_raise {c : ErrCode} (h : Host.Outcome.next (φ := Fault) (ρ := Refusal) (raiseError c s) = .next t) :
    CommandCompletion i s t := by
  cases h
  exact .error c

theorem completion_of_success {r : BinPoly}
    (h : Host.Outcome.next (φ := Fault) (ρ := Refusal) (success r .empty 0 s) = .next t) : CommandCompletion i s t := by
  cases h
  exact .single r

/-- A check in front of a command adds an error to the ways it can end, and no other. -/
theorem completion_of_check {p : Prop} [Decidable p] {c : ErrCode} {o : Host.Outcome State Fault Refusal}
    (h : (if p then .next (raiseError c s) else o) = .next t) (ho : o = .next t → CommandCompletion i s t) :
    CommandCompletion i s t := by
  split at h
  · exact completion_of_raise h
  · exact ho h

/-- Once, the ways the command of each row can end. -/
theorem exec_completion (h : exec i s = .next t) : CommandCompletion i s t := by
  cases i with
  | pdeg | ptrim => exact completion_of_check h completion_of_success
  | padd | fadd => exact completion_of_check h fun h => completion_of_check h completion_of_success
  | pmul =>
    exact completion_of_check h fun h => completion_of_check h fun h => completion_of_check h completion_of_success
  | pred =>
    refine completion_of_check h fun h => completion_of_check h fun h => ?_
    split at h
    · exact completion_of_raise h
    · cases h
      exact .division _ _ rfl
  | fnew =>
    simp only [exec, execFnew] at h
    split at h
    · exact completion_of_raise h
    · exact completion_of_check h completion_of_success
  | fmul =>
    refine completion_of_check h fun h => completion_of_check h fun h => ?_
    split at h
    · exact completion_of_raise h
    · exact completion_of_success h
  | finv =>
    refine completion_of_check h fun h => completion_of_check h fun h => ?_
    split at h
    · exact completion_of_raise h
    · cases h
      exact .inverse _ rfl
  | reservedOpc0 | reservedOpc6 | reservedOpc7 | reservedOpcC | reservedOpcD | reservedOpcE | reservedOpcF =>
    exact completion_of_raise h

end completions

/-- `t` differs from `s` as the completion of a command allows: it ends with BUSY = 0, writes no operand register, no latch,
not LOST, nothing of the host and the turns, and RES0 and RES1 only without error (R22, R23, R27, R34, R38, R179). -/
structure CommandFrame (s t : State) : Prop where
  opa : t.opa = s.opa
  opb : t.opb = s.opb
  latch : t.latch = s.latch
  lost : t.status.lost = s.status.lost
  busy : t.status.busy = false
  host : t.host = s.host
  sched : t.sched = s.sched
  results : t.status.err = true → t.res0 = s.res0 ∧ t.res1 = s.res1

theorem raiseError_frame (c : ErrCode) (s : State) : CommandFrame s (raiseError c s) :=
  ⟨rfl, rfl, rfl, rfl, rfl, rfl, rfl, fun _ => ⟨rfl, rfl⟩⟩

theorem success_frame (r0 r1 : BinPoly) (n : Nat) (e : Engine) (s : State) :
    CommandFrame s (success r0 r1 n (s.setEngine e)) :=
  ⟨rfl, rfl, rfl, rfl, rfl, rfl, rfl, by simp⟩

theorem exec_frame {i : Instr} {s t : State} (h : exec i s = .next t) : CommandFrame s t := by
  cases exec_completion h with
  | error c => exact raiseError_frame c s
  | single r => exact success_frame r .empty 0 s.engine s
  | division q r => exact success_frame q r 0 s.engine s
  | inverse e => exact success_frame e.result .empty e.steps e s

/-- Settles O36: `exec_frame` gives all but the engine, and of the ways to end only FINV's success names that. -/
theorem commandsLeaveTheRestAlone : Obligations.CommandsLeaveTheRestAlone := by
  intro i s t h
  have frame := exec_frame h
  refine ⟨frame.opa, frame.opb, frame.latch, frame.lost, frame.busy, frame.host, frame.sched, fun hi => ?_⟩
  cases exec_completion h with
  | error | single | division => rfl
  | inverse e hfinv => exact absurd hfinv hi

/-- Settles O37: of the successes, only PRED's has a second result and only FINV's has a count. -/
theorem secondaryResultsAreZeroElsewhere : Obligations.SecondaryResultsAreZeroElsewhere := by
  intro i s t h herr
  cases exec_completion h with
  | error c => simp at herr
  | single r => exact ⟨fun _ => rfl, fun _ => rfl⟩
  | division q r hpred => exact ⟨fun hi => absurd hpred hi, fun _ => rfl⟩
  | inverse e hfinv => exact ⟨fun _ => rfl, fun hi => absurd hfinv hi⟩

end Sys2Proof.Machine

end

/-! The completion step (R27): what it leaves alone, and what it does by what the latched word decodes to. -/
section

namespace Sys2Proof.Machine

theorem completionStep_frame {s t : State} (hb : s.status.busy = true) (h : completionStep s = .next t) :
    CommandFrame s t := by
  obtain ⟨-, i, -, hs⟩ | ⟨-, -, hs⟩ | ⟨hn, -⟩ := completionStep_cases s
  · exact exec_frame (hs.symm.trans h)
  · cases hs.symm.trans h
    exact raiseError_frame .illegalCommand s
  · simp [hb] at hn

theorem completionStep_of_decode {s : State} {i : Instr} (hb : s.status.busy = true) (hd : decode s.latch.cmd = .ok i) :
    completionStep s = exec i s := by
  simp [completionStep, hb, hd]

theorem completionStep_idle {s : State} (hb : s.status.busy = false) : completionStep s = .next s := by
  simp [completionStep, hb]

theorem exec_reserved {i : Instr} (hi : i.isReserved = true) (s : State) :
    exec i s = .next (raiseError .illegalCommand s) := by
  cases i with
  | pdeg | ptrim | padd | pmul | pred | fnew | fadd | fmul | finv => cases hi
  | reservedOpc0 | reservedOpc6 | reservedOpc7 | reservedOpcC | reservedOpcD | reservedOpcE | reservedOpcF => rfl

/-- R78: the decoder answers an illegal word with a reserved row or with a rejection, and both end in IllegalCommand. -/
theorem completionStep_of_illegal {s : State} (hb : s.status.busy = true) (hc : isIllegal s.latch.cmd = true) :
    completionStep s = .next (raiseError .illegalCommand s) := by
  obtain ⟨-, i, hd, hs⟩ | ⟨-, -, hs⟩ | ⟨hn, -⟩ := completionStep_cases s
  · have hi : i.isReserved = true := by simpa [isIllegal, hd] using hc
    rw [hs, exec_reserved hi]
  · exact hs
  · simp [hb] at hn

theorem isIllegal_of_mbz {c : Word} (h : mbzField c ≠ 0) : isIllegal c = true := by
  have hd : decode c = .error (.mustBeZero (mbzField c)) := if_pos h
  simp [isIllegal, hd]

/-- Settles O13: a step on the core's turn is the completion step, which runs the decoded instruction. -/
theorem coreTurnRunsTheDecodedCommand : Obligations.CoreTurnRunsTheDecodedCommand := by
  rintro s i ⟨hturn, hb⟩ hd
  exact (step_of_core hturn).trans (completionStep_of_decode (s := s.popTurn) hb hd)

/-- Settles O15: a step on the core's turn is the completion step, which finds nothing in flight. -/
theorem idleCoreDoesNothing : Obligations.IdleCoreDoesNothing := by
  intro s hturn hb
  exact (step_of_core hturn).trans (completionStep_idle (s := s.popTurn) hb)

/-- Settles O32: both kinds of illegal word end in the error tail of IllegalCommand. -/
theorem illegalWordsCompleteWithIllegalCommand : Obligations.IllegalWordsCompleteWithIllegalCommand := by
  refine ⟨fun s hb hc => completionStep_of_illegal hb hc, ?_, fun c => isIllegal_of_mbz⟩
  rintro s ⟨hturn, hb⟩ hc
  exact (step_of_core hturn).trans (completionStep_of_illegal (s := s.popTurn) hb hc)

end Sys2Proof.Machine

end

/-! A step of the machine: `StepEffect` lists what it can do, whoever moves. -/
section

namespace Sys2Proof.Machine

/-- The state `t` that a step from `s` leads to. Outside a completion and a reset it is one host access, or none, in the
state whose turn is taken and whose host agent has gone on (R13, R52, R53, R82). -/
inductive StepEffect (s : State) : State → Prop
  | completion {t : State} : s.completes → completionStep s.popTurn = .next t → StepEffect s t
  | reset (h : HostAgent) : s.resets → StepEffect s (resetEvent (s.popTurn.setHost h))
  | hostOnly (h : HostAgent) : StepEffect s (s.popTurn.setHost h)
  | writeOpa (h : HostAgent) (w : Word) : s.writes 0 w →
      StepEffect s { s.popTurn.setHost h with opa := w.extractLsb' 0 21 }
  | writeOpb (h : HostAgent) (w : Word) : s.writes 1 w →
      StepEffect s { s.popTurn.setHost h with opb := w.extractLsb' 0 21 }
  | drop (h : HostAgent) (w : Word) : s.writes 2 w → s.status.busy = true →
      StepEffect s (dropCommand (s.popTurn.setHost h))
  | accept (h : HostAgent) (w : Word) : s.writes 2 w → s.status.busy = false →
      StepEffect s (acceptCommand w (s.popTurn.setHost h))

/-- What a write by the host does is the case of R52 for its index. -/
theorem hostWrite_effect {s : State} {idx : RegIndex} {w : Word} (hw : s.writes idx w) (h : HostAgent) :
    StepEffect s (hostWrite idx w (s.popTurn.setHost h)) := by
  obtain ⟨rfl, ht⟩ | ⟨rfl, ht⟩ | ⟨rfl, hb, ht⟩ | ⟨rfl, hb, ht⟩ | ⟨-, ht⟩ := hostWrite_cases idx w (s.popTurn.setHost h)
  · exact ht ▸ .writeOpa h w hw
  · exact ht ▸ .writeOpb h w hw
  · exact ht ▸ .drop h w hw hb
  · exact ht ▸ .accept h w hw hb
  · rw [ht]
    exact .hostOnly h

/-- Once, what a step does on each turn. -/
theorem step_effect {s t : State} (h : step s = .next t) : StepEffect s t := by
  cases hturn : s.currentTurn with
  | core =>
    rw [step_of_core hturn] at h
    cases hb : s.status.busy with
    | true => exact .completion ⟨hturn, hb⟩ h
    | false =>
      cases (completionStep_idle (s := s.popTurn) hb).symm.trans h
      exact .hostOnly s.host
  | reset =>
    cases (step_of_reset hturn).symm.trans h
    exact .reset s.host (.inl hturn)
  | host =>
    cases (step_of_host hturn).symm.trans h
    obtain ⟨r, v, hstmt, ht⟩ | ⟨hstmt, ht⟩ | ⟨-, -, h', ht⟩ := hostTurn_cases s.popTurn
    · exact ht ▸ hostWrite_effect ⟨hturn, r, v, hstmt, rfl, rfl⟩ s.host.advance
    · exact ht ▸ .reset s.host.advance (.inr ⟨hturn, hstmt⟩)
    · exact ht ▸ .hostOnly h'

/-- Settles O18: of the effects outside reset, only acceptance raises BUSY or writes the latch. -/
theorem commandsStartOnlyByAcceptance : Obligations.CommandsStartOnlyByAcceptance := by
  intro s t hstep hnr hstart
  cases step_effect hstep with
  | completion hc ht =>
    have frame := completionStep_frame (s := s.popTurn) hc.2 ht
    simp [frame.busy, frame.latch] at hstart
  | reset h hr => exact absurd hr hnr
  | hostOnly h | writeOpa h w hw | writeOpb h w hw | drop h w hw hb => simp_all
  | accept h w hw hb => exact ⟨hb, rfl, w, hw, rfl, rfl⟩

/-- Settles O19: each register is named by one effect outside reset, and RES0 and RES1 by completions without error. -/
theorem registersHaveOneWriter : Obligations.RegistersHaveOneWriter := by
  intro s t hstep hnr
  cases step_effect hstep with
  | completion hc ht =>
    have frame := completionStep_frame (s := s.popTurn) hc.2 ht
    refine ⟨fun hne => absurd frame.opa hne, fun hne => absurd frame.opb hne, fun hne => ⟨hc, ?_⟩⟩
    cases herr : t.status.err with
    | false => rfl
    | true =>
      obtain ⟨h0, h1⟩ := frame.results herr
      simp [h0, h1] at hne
  | reset h hr => exact absurd hr hnr
  | writeOpa h w hw => exact ⟨fun _ => ⟨w, hw, rfl⟩, by simp, by simp⟩
  | writeOpb h w hw => exact ⟨by simp, fun _ => ⟨w, hw, rfl⟩, by simp⟩
  | hostOnly h | drop h w hw hb | accept h w hw hb => simp

/-- Settles O20: of the effects outside reset, only a dropped CMD write and an accepted one write LOST. -/
theorem lostRecordsDroppedWrites : Obligations.LostRecordsDroppedWrites := by
  intro s t hstep hnr
  cases step_effect hstep with
  | completion hc ht =>
    have hlost : t.status.lost = s.status.lost := (completionStep_frame (s := s.popTurn) hc.2 ht).lost
    simp +contextual [hlost]
  | reset h hr => exact absurd hr hnr
  | hostOnly h | writeOpa h w hw | writeOpb h w hw => simp +contextual
  | drop h w hw hb => exact ⟨fun _ _ => ⟨hb, w, hw⟩, by simp⟩
  | accept h w hw hb => exact ⟨by simp, fun _ _ => ⟨hb, w, hw⟩⟩

end Sys2Proof.Machine

end

/-! The host port: what each register reads back as, and where the fields of STATUS stand. -/
section

namespace Sys2Proof.Machine

/-- After reset a host reads zero at every index but that of STATUS, whose Z is set (R41). -/
theorem hostRead_reset (idx : RegIndex) : hostRead idx State.reset = if idx = 5 then 0x00000020#32 else 0#32 := by
  revert idx
  decide

/-- Settles O7: the fields are those `State.reset` writes, and `hostRead_reset` gives the reads. -/
theorem resetLeavesTheListedValues : Obligations.ResetLeavesTheListedValues :=
  ⟨rfl, rfl, rfl, rfl, rfl, hostRead_reset⟩

/-! `Nat.reduceAdd` is kept out of the three proofs below: it would evaluate the width of the concatenation, and simp
would no longer see the parts. -/

/-- The one-bit fields of R26: of the concatenation, bit `i` lies in one part. -/
theorem toWord_flagBits (st : Status) :
    st.toWord.getLsbD 0 = st.busy ∧ st.toWord.getLsbD 1 = st.err ∧ st.toWord.getLsbD 5 = st.z ∧
      st.toWord.getLsbD 6 = st.degv ∧ st.toWord.getLsbD 16 = st.lost := by
  simp only [Status.toWord, BitVec.getLsbD_append, -Nat.reduceAdd]
  simp

/-- The wider fields of R26: each part of the concatenation is found by dropping the parts right of it. -/
theorem toWord_fields (st : Status) :
    st.toWord.extractLsb' 2 3 = st.ecode ∧ st.toWord.extractLsb' 7 5 = st.deg ∧ st.toWord.extractLsb' 12 4 = st.iter := by
  simp [Status.toWord, BitVec.extractLsb'_append_eq_of_le, BitVec.extractLsb'_append_eq_of_add_le, -Nat.reduceAdd]

/-- Above LOST stand the zeros of R35. -/
theorem toWord_top (st : Status) : st.toWord.extractLsb' 17 15 = 0 := by
  simp [Status.toWord, BitVec.extractLsb'_append_eq_of_le, -Nat.reduceAdd]

/-- Settles O9: the fields of the concatenation, and that index 5 is one of those whose writes are ignored (R51). -/
theorem statusWordHasTheLayoutOfR26 : Obligations.StatusWordHasTheLayoutOfR26 := by
  intro s d
  obtain ⟨hbusy, herr, hz, hdegv, hlost⟩ := toWord_flagBits s.status
  obtain ⟨hecode, hdeg, hiter⟩ := toWord_fields s.status
  exact ⟨hbusy, herr, hecode, hz, hdegv, hdeg, hiter, hlost, toWord_top s.status, hostWrite_ignored 5 d s (by decide)⟩

/-- An operand register keeps bits [20:0] of a word, and a read gives them back under zeros (R22, R23). -/
theorem setWidth_low21 (d : Word) : (d.extractLsb' 0 21).setWidth 32 = d &&& 0x001FFFFF#32 := by
  apply BitVec.eq_of_toNat_eq
  have hmask : d.toNat &&& 2097151 = d.toNat % 2097152 := Nat.and_two_pow_sub_one_eq_mod d.toNat 21
  simp [hmask]
  omega

/-- Settles O12: a write to OPA or OPB replaces that field alone, so the other reads as before and a repeated write is
absorbed. -/
theorem operandWritesReadBackAndRepeat : Obligations.OperandWritesReadBackAndRepeat :=
  fun _ d => ⟨setWidth_low21 d, setWidth_low21 d, rfl, rfl, rfl, rfl⟩

/-- Settles O40: the reset state has no result, no error and an empty engine. -/
theorem resetStateIsSound : Obligations.ResetStateIsSound where
  res0_wf := rfl
  res1_wf := rfl
  flags := ⟨rfl, rfl, rfl⟩
  error := by decide
  iter := .inl rfl
  engine := by decide

end Sys2Proof.Machine

end

/-! Field elements (R42): the values below 256, each at its trimmed length. -/
section

namespace Sys2Proof

/-- The trimmed length of a value is the number of its bits. -/
theorem trimmedLen_le_iff (v n : Nat) : trimmedLen v ≤ n ↔ v < 2 ^ n := by
  by_cases hv : v = 0
  · simp [trimmedLen, hv]
  · rw [trimmedLen, if_neg hv, hibit, Nat.succ_le_iff, Nat.log2_lt hv]

theorem fieldElement_pair (v : Nat) : (fieldElement v).Pair := (trimmedLen_le_iff v _).mp le_rfl

theorem canon8_iff (p : BinPoly) : p.canon8 = true ↔ p.Fits 16 ∧ p.len ≤ 8 ∧ p.len = trimmedLen p.val := by
  rw [BinPoly.canon8, Bool.and_eq_true, Bool.and_eq_true, wf_iff_fits, decide_eq_true_eq, beq_iff_eq, and_assoc]
  rfl

/-- Settles O6: a pair is at its trimmed length exactly when it is the field element of its own value, and that length is
at most 8 exactly when the value is below 256. -/
theorem canonicalOperandsAreFieldElements : Obligations.CanonicalOperandsAreFieldElements := by
  intro p
  rw [canon8_iff]
  constructor
  · rintro ⟨-, h8, hlen⟩
    exact ⟨p.val, (trimmedLen_le_iff p.val 8).mp (hlen ▸ h8), congrArg (BinPoly.mk · p.val) hlen⟩
  · rintro ⟨v, hv, rfl⟩
    have h8 : (fieldElement v).len ≤ 8 := (trimmedLen_le_iff v 8).mpr hv
    exact ⟨⟨h8.trans (by decide), fieldElement_pair v⟩, h8, rfl⟩

end Sys2Proof

end

/-! The carry-less product (R104): it is linear over XOR, commutative, and adds degrees. -/
section

namespace Sys2Proof

theorem lt_two_pow_hibit_succ (v : Nat) : v < 2 ^ (hibit v + 1) := Nat.lt_log2_self

theorem hibit_eq_iff {v d : Nat} (hv : v ≠ 0) : hibit v = d ↔ 2 ^ d ≤ v ∧ v < 2 ^ (d + 1) := Nat.log2_eq_iff hv

/-- The low `n + 1` bits of a value are its low `n` bits and bit `n`. -/
theorem mod_two_pow_succ_eq_xor (x n : Nat) :
    x % 2 ^ (n + 1) = x % 2 ^ n ^^^ (if x.testBit n then 1 <<< n else 0) := by
  apply Nat.eq_of_testBit_eq
  intro i
  have hbit : (if x.testBit n then 1 <<< n else 0).testBit i = (decide (n = i) && x.testBit n) := by
    cases x.testBit n
    · simp
    · rw [if_pos rfl, Nat.one_shiftLeft, Nat.testBit_two_pow, Bool.and_true]
  rw [Nat.testBit_xor, Nat.testBit_mod_two_pow, Nat.testBit_mod_two_pow, hbit]
  obtain hlt | rfl | hgt := lt_trichotomy i n
  · simp [hlt, hlt.ne', hlt.trans n.lt_succ_self]
  · simp
  · simp [hgt.ne, hgt.not_gt, Nat.not_lt.mpr (Nat.succ_le_of_lt hgt)]

theorem clmulBelow_xor_right (x a b n : Nat) : clmulBelow x (a ^^^ b) n = clmulBelow x a n ^^^ clmulBelow x b n := by
  induction n with
  | zero => simp
  | succ n ih =>
    rw [clmulBelow_succ, clmulBelow_succ, clmulBelow_succ, ih]
    split
    · rw [Nat.shiftLeft_xor_distrib]
      ac_rfl
    · simp

theorem clmul_xor_right (x a b : Nat) : clmul x (a ^^^ b) = clmul x a ^^^ clmul x b :=
  clmulBelow_xor_right x a b _

theorem clmulBelow_one_shiftLeft (x k n : Nat) : clmulBelow x (1 <<< k) n = (x % 2 ^ n) <<< k := by
  induction n with
  | zero => simp [Nat.mod_one]
  | succ n ih =>
    rw [clmulBelow_succ, ih, mod_two_pow_succ_eq_xor, Nat.shiftLeft_xor_distrib]
    split
    · rw [← Nat.shiftLeft_add, ← Nat.shiftLeft_add, Nat.add_comm]
    · simp

theorem clmul_one_shiftLeft (x k : Nat) : clmul x (1 <<< k) = x <<< k := by
  rw [clmul, clmulBelow_one_shiftLeft, Nat.mod_eq_of_lt (lt_two_pow_hibit_succ x)]

@[simp] theorem clmul_zero_right (x : Nat) : clmul x 0 = 0 := by
  have h := clmul_xor_right x 0 0
  rwa [Nat.xor_self, Nat.xor_self] at h

/-- The part of a product that the low bits of `x` give is the product with those bits. -/
theorem clmulBelow_eq_clmul_mod (x y n : Nat) : clmulBelow x y n = clmul y (x % 2 ^ n) := by
  induction n with
  | zero => simp [Nat.mod_one]
  | succ n ih =>
    rw [clmulBelow_succ, ih, mod_two_pow_succ_eq_xor, clmul_xor_right]
    split
    · rw [clmul_one_shiftLeft]
    · rw [clmul_zero_right]

theorem clmul_comm (x y : Nat) : clmul x y = clmul y x := by
  rw [clmul, clmulBelow_eq_clmul_mod, Nat.mod_eq_of_lt (lt_two_pow_hibit_succ x)]

theorem clmulBelow_lt (x y n : Nat) : clmulBelow x y n < 2 ^ (n + hibit y) := by
  induction n with
  | zero => exact Nat.two_pow_pos _
  | succ n ih =>
    have hshift : y <<< n < 2 ^ (n + 1 + hibit y) := by
      rw [Nat.shiftLeft_eq, show n + 1 + hibit y = hibit y + 1 + n by omega, Nat.pow_add _ _ n]
      exact Nat.mul_lt_mul_of_pos_right (lt_two_pow_hibit_succ y) (Nat.two_pow_pos n)
    rw [clmulBelow_succ]
    refine Nat.xor_lt_two_pow (ih.trans (Nat.pow_lt_pow_right (by decide) (by omega))) ?_
    split
    · exact hshift
    · exact Nat.two_pow_pos _

/-- The top bits of two nonzero values meet at the sum of their positions, where no other pair of bits does. -/
theorem clmul_testBit_top {x y : Nat} (hx : x ≠ 0) (hy : y ≠ 0) : (clmul x y).testBit (hibit x + hibit y) = true := by
  have hbelow : (clmulBelow x y (hibit x)).testBit (hibit x + hibit y) = false :=
    Nat.testBit_lt_two_pow (clmulBelow_lt x y (hibit x))
  have htop : x.testBit (hibit x) = true := Nat.testBit_log2 hx
  have hytop : y.testBit (hibit y) = true := Nat.testBit_log2 hy
  rw [clmul, clmulBelow_succ, if_pos htop, Nat.testBit_xor, hbelow, Nat.testBit_shiftLeft]
  simp [hytop]

theorem clmul_ne_zero {x y : Nat} (hx : x ≠ 0) (hy : y ≠ 0) : clmul x y ≠ 0 := by
  intro h
  have htop := clmul_testBit_top hx hy
  simp [h] at htop

/-- Law 6 of R107, on values. -/
theorem hibit_clmul {x y : Nat} (hx : x ≠ 0) (hy : y ≠ 0) : hibit (clmul x y) = hibit x + hibit y := by
  rw [hibit_eq_iff (clmul_ne_zero hx hy)]
  refine ⟨Nat.ge_two_pow_of_testBit (clmul_testBit_top hx hy), ?_⟩
  rw [Nat.add_right_comm]
  exact clmulBelow_lt x y (hibit x + 1)

/-- The division loop keeps a multiple of its divisor a multiple: each pass takes a shifted divisor from it. -/
theorem divLoop_multiple {m r : Nat} (h : ∃ y, r = clmul m y) (dm fuel q : Nat) :
    ∃ y, (divLoop dm m fuel (q, r)).2 = clmul m y := by
  induction fuel generalizing q r with
  | zero => exact h
  | succ fuel ih =>
    by_cases hpass : r ≠ 0 ∧ dm ≤ hibit r
    · obtain ⟨y, rfl⟩ := h
      rw [divLoop_pass _ _ _ _ _ hpass]
      refine ih ⟨y ^^^ 1 <<< (hibit (clmul m y) - dm), ?_⟩ _
      rw [clmul_xor_right, clmul_one_shiftLeft]
    · rw [divLoop_end _ _ _ _ _ hpass]
      exact h

/-- No nonzero multiple of `m` has a smaller degree than `m`. -/
theorem hibit_le_of_multiple {m r : Nat} (hm : m ≠ 0) (hr : r ≠ 0) (h : ∃ y, r = clmul m y) : hibit m ≤ hibit r := by
  obtain ⟨y, rfl⟩ := h
  have hy : y ≠ 0 := fun hy => hr (by rw [hy, clmul_zero_right])
  rw [hibit_clmul hm hy]
  exact Nat.le_add_right _ _

end Sys2Proof

end

/-! The modulus (R40, R130): trial division by every polynomial of degree 1 to 4 leaves a remainder. -/
section

namespace Sys2Proof

/-- The remainder of MOD by the polynomial of value `m`, as the loop of R105 computes it. -/
def modulusRemainder (m : Nat) : Nat := (divLoop (hibit m) m (hibit Config.MOD.val + 1) (0, Config.MOD.val)).2

theorem modulusRemainder_of_small : ∀ m < 32, 1 < m → modulusRemainder m ≠ 0 ∧ hibit (modulusRemainder m) < hibit m := by
  decide

/-- A factor of MOD of degree at most 4 is 1: of any other, the remainder would be a multiple of too small a degree. -/
theorem eq_one_of_small_factor {m y : Nat} (hm : m ≠ 0) (hdeg : hibit m ≤ 4) (h : clmul m y = Config.MOD.val) :
    m = 1 := by
  by_contra hne
  have hlt : m < 32 := (Nat.log2_lt hm).mp (Nat.lt_succ_of_le hdeg)
  obtain ⟨hr, hsmall⟩ := modulusRemainder_of_small m hlt (by omega)
  have hle := hibit_le_of_multiple hm hr (divLoop_multiple ⟨y, h.symm⟩ _ _ _)
  omega

/-- Settles O51: the degrees of two factors add up to 8, so one of them is at most 4, and that factor is 1. -/
theorem modulusIsIrreducible : Obligations.ModulusIsIrreducible := by
  refine ⟨rfl, rfl, fun x y h => ?_⟩
  have hmod : Config.MOD.val ≠ 0 := by decide
  have hx : x ≠ 0 := fun hx => hmod (by rw [← h, hx, clmul_comm, clmul_zero_right])
  have hy : y ≠ 0 := fun hy => hmod (by rw [← h, hy, clmul_zero_right])
  have hdeg : hibit x + hibit y = 8 := by
    rw [← hibit_clmul hx hy, h]
    decide
  by_cases hx4 : hibit x ≤ 4
  · exact .inl (eq_one_of_small_factor hx hx4 h)
  · exact .inr (eq_one_of_small_factor hy (by omega) ((clmul_comm y x).trans h))

end Sys2Proof

end

/-! The host port by cases (R51, R52), and the acceptance that puts a command word before the core (R52, R76). -/
section

namespace Sys2Proof

/-- The rows of the opcode map are read back from their words (R76). -/
theorem decode_encode (i : Instr) : decode (encode i) = .ok i := by
  cases i <;> rfl

/-- A number below `2^32` is a command word, the one with those bits. -/
theorem tableWord_toNat (c : Word) : tableWord 32 c.toNat = some c := by
  have hmod : c.toNat % 2 ^ 32 = c.toNat := Nat.mod_eq_of_lt c.isLt
  rw [tableWord, hmod, if_pos c.isLt, BitVec.ofNat_toNat, BitVec.setWidth_eq]

namespace Machine

theorem withFetchWord_toNat (s : State) (c : Word) :
    s.withFetchWord 32 c.toNat = (acceptCommand c s).pushCore := by
  rw [State.withFetchWord, tableWord_toNat]

theorem hostWrite_cmd_idle {s : State} (hb : s.status.busy = false) (d : Word) :
    hostWrite 2 d s = acceptCommand d s := by simp [hb]

theorem hostWrite_cmd_busy {s : State} (hb : s.status.busy = true) (d : Word) : hostWrite 2 d s = dropCommand s := by
  simp [hb]

/-- Settles O10: each index selects its column of R51. -/
theorem readsReturnTheRegisterMap : Obligations.ReadsReturnTheRegisterMap :=
  ⟨fun _ => ⟨rfl, rfl, rfl, rfl, rfl, rfl, rfl, rfl⟩, fun _ => rfl⟩

/-- Settles O11: BUSY decides whether a CMD write is accepted or dropped, and the other cases do not look at it. -/
theorem hostWriteFollowsR52 : Obligations.HostWriteFollowsR52 :=
  fun s d => ⟨hostWrite_opa d s, hostWrite_opb d s, (hostWrite_cmd_idle · d), (hostWrite_cmd_busy · d),
    (hostWrite_ignored · d s)⟩

/-- Settles O14: after the acceptance the core's turn stands first, BUSY is 1, and the latched word decodes to `i`. -/
theorem acceptedWordRunsNext : Obligations.AcceptedWordRunsNext := by
  intro s i
  rw [withFetchWord_toNat, step_of_core (pushCore_currentTurn _), pushCore_popTurn]
  exact completionStep_of_decode (acceptCommand_busy s (encode i)) (decode_encode i)

end Machine

end Sys2Proof

end

/-! Steps that go on, and turns of the host while a command is in flight. -/
section

namespace Sys2Proof.Machine

theorem completionStep_goesOn (s : State) : GoesOn (completionStep s) := by
  cases hb : s.status.busy with
  | true =>
    obtain ⟨t, ht, -⟩ := completionStep_busy_next hb
    exact ⟨t, ht⟩
  | false => exact ⟨s, completionStep_idle hb⟩

/-- Settles O35: the turns of the host and of the reset input answer a state by definition, the core's by
`completionStep_goesOn`. -/
theorem everyStepGoesOn : Obligations.EveryStepGoesOn := by
  intro s
  cases hturn : s.currentTurn with
  | core => exact step_of_core hturn ▸ completionStep_goesOn s.popTurn
  | host => exact ⟨_, step_of_host hturn⟩
  | reset => exact ⟨_, step_of_reset hturn⟩

/-- Settles O17: of the effects of a step, a completion is not the host's, a reset is ruled out, and an acceptance needs
BUSY = 0; those left write an operand register, LOST, or the host agent. -/
theorem hostTurnWhileBusyKeepsResults : Obligations.HostTurnWhileBusyKeepsResults := by
  intro s t hbusy hturn hstmt hstep
  cases step_effect hstep with
  | completion hc => simp [State.completes, hturn] at hc
  | reset h hr => simp [State.resets, hturn, hstmt] at hr
  | accept h w hw hidle => simp [hbusy] at hidle
  | hostOnly | writeOpa | writeOpb | drop => exact ⟨rfl, rfl, rfl, rfl, rfl⟩

end Sys2Proof.Machine

end

/-! Completion and the host's accesses commute (R60, R208): a command works on the operands latched at its acceptance
(R38), so it neither reads nor writes the operand registers, and these are all that an access other than a CMD write can
change. -/
section

namespace Sys2Proof.Machine

/-- The state with OPA changed by `f` and OPB by `g`. -/
def State.mapOperands (f g : PolyReg → PolyReg) (s : State) : State := { s with opa := f s.opa, opb := g s.opb }

section commutation

variable {f g : PolyReg → PolyReg} {i : Instr} {s t : State}

@[simp] theorem mapOperands_operandA : (s.mapOperands f g).operandA = s.operandA := rfl
@[simp] theorem mapOperands_operandB : (s.mapOperands f g).operandB = s.operandB := rfl

theorem setEngine_mapOperands (e : Engine) (s : State) :
    (s.mapOperands f g).setEngine e = (s.setEngine e).mapOperands f g := rfl

/-- A check in front of a command commutes when its error and the command do. -/
theorem check_mapOperands {p : Prop} [Decidable p] {c : ErrCode} {o o' : Host.Outcome State Fault Refusal}
    (h : (if p then .next (raiseError c s) else o) = .next t)
    (ho : o = .next t → o' = .next (t.mapOperands f g)) :
    (if p then .next (raiseError c (s.mapOperands f g)) else o') = .next (t.mapOperands f g) := by
  split at h
  · cases h
    exact if_pos ‹p›
  · rw [if_neg ‹¬p›, ho h]

theorem next_raiseError_mapOperands {c : ErrCode}
    (h : Host.Outcome.next (φ := Fault) (ρ := Refusal) (raiseError c s) = .next t) :
    Host.Outcome.next (φ := Fault) (ρ := Refusal) (raiseError c (s.mapOperands f g)) = .next (t.mapOperands f g) := by
  cases h
  rfl

theorem next_success_mapOperands {r0 r1 : BinPoly} {n : Nat}
    (h : Host.Outcome.next (φ := Fault) (ρ := Refusal) (success r0 r1 n s) = .next t) :
    Host.Outcome.next (φ := Fault) (ρ := Refusal) (success r0 r1 n (s.mapOperands f g)) =
      .next (t.mapOperands f g) := by
  cases h
  rfl

/-- A command reads its operands from the latch, and neither tail writes OPA or OPB. -/
theorem exec_mapOperands (h : exec i s = .next t) : exec i (s.mapOperands f g) = .next (t.mapOperands f g) := by
  cases i with
  | pdeg | ptrim => exact check_mapOperands h next_success_mapOperands
  | padd | fadd => exact check_mapOperands h fun h => check_mapOperands h next_success_mapOperands
  | pmul =>
    exact check_mapOperands h fun h => check_mapOperands h fun h => check_mapOperands h next_success_mapOperands
  | pred | fmul =>
    refine check_mapOperands h fun h => check_mapOperands h fun h => ?_
    rw [mapOperands_operandA, mapOperands_operandB]
    split at h
    · exact next_raiseError_mapOperands h
    · exact next_success_mapOperands h
  | fnew =>
    simp only [exec, execFnew, mapOperands_operandA] at h ⊢
    split at h
    · exact next_raiseError_mapOperands h
    · exact check_mapOperands h next_success_mapOperands
  | finv =>
    refine check_mapOperands h fun h => check_mapOperands h fun h => ?_
    rw [mapOperands_operandA]
    split at h
    · exact next_raiseError_mapOperands h
    · rw [setEngine_mapOperands]
      exact next_success_mapOperands h
  | reservedOpc0 | reservedOpc6 | reservedOpc7 | reservedOpcC | reservedOpcD | reservedOpcE | reservedOpcF =>
    exact next_raiseError_mapOperands h

theorem completionStep_mapOperands (h : completionStep s = .next t) :
    completionStep (s.mapOperands f g) = .next (t.mapOperands f g) := by
  cases hb : s.status.busy with
  | false =>
    cases (completionStep_idle hb).symm.trans h
    exact completionStep_idle hb
  | true =>
    cases hd : decode s.latch.cmd with
    | ok i =>
      rw [completionStep_of_decode hb hd] at h
      exact (completionStep_of_decode (s := s.mapOperands f g) hb hd).trans (exec_mapOperands h)
    | error r =>
      have hc : isIllegal s.latch.cmd = true := by simp [isIllegal, hd]
      rw [completionStep_of_illegal hb hc] at h
      exact (completionStep_of_illegal (s := s.mapOperands f g) hb hc).trans (next_raiseError_mapOperands h)

end commutation

/-- An access other than a CMD write changes at most an operand register, whatever the state it meets (R51, R52). -/
theorem apply_eq_mapOperands (a : HostAccess) : ∃ f g, ∀ s, a.apply s = s.mapOperands f g := by
  cases a with
  | read idx => exact ⟨id, id, fun _ => rfl⟩
  | write idx d hcmd =>
    by_cases hidx : 3 ≤ idx.toNat
    · exact ⟨id, id, fun s => hostWrite_ignored idx d s hidx⟩
    · have hop : idx = 0 ∨ idx = 1 := by
        revert idx
        decide
      obtain rfl | rfl := hop
      · exact ⟨fun _ => d.extractLsb' 0 21, id, hostWrite_opa d⟩
      · exact ⟨id, fun _ => d.extractLsb' 0 21, hostWrite_opb d⟩

theorem completionStep_apply {s t : State} (a : HostAccess) (h : completionStep s = .next t) :
    completionStep (a.apply s) = .next (a.apply t) := by
  obtain ⟨f, g, ha⟩ := apply_eq_mapOperands a
  rw [ha s, ha t]
  exact completionStep_mapOperands h

theorem completionStep_applyAccesses {s t : State} (accesses : List HostAccess) (h : completionStep s = .next t) :
    completionStep (applyAccesses accesses s) = .next (applyAccesses accesses t) := by
  induction accesses generalizing s t with
  | nil => exact h
  | cons a as ih => exact ih (completionStep_apply a h)

/-- Settles O42: each access commutes with the completion, whether a command is in flight or not. -/
theorem latencyDoesNotChangeTheOutcome : Obligations.LatencyDoesNotChangeTheOutcome :=
  fun _ _ accesses _ h => completionStep_applyAccesses accesses h

end Sys2Proof.Machine

end

/-! The opcode map (R75 to R77): a word without a bit of MBZ is its field OPC, and the rows are the sixteen values of that
field. -/
section

namespace Sys2Proof

open Machine

/-- A word is MBZ above OPC. -/
theorem mbzField_append_opcField (c : Word) : mbzField c ++ opcField c = c := by
  rw [mbzField, opcField, BitVec.extractLsb'_append_extractLsb'_eq_extractLsb' (by rfl), BitVec.extractLsb'_eq_self]

/-- A row's word is the OPC it is found by, under zeros. -/
theorem encode_of_decodeOpc {i : Instr} : ∀ {opc : BitVec 4}, decodeOpc opc = .ok i → 0#28 ++ opc = encode i := by
  cases i <;> decide

/-- The decoder accepts a word exactly when MBZ is zero and OPC names a row. -/
theorem decode_eq_ok_iff {c : Word} {i : Instr} :
    decode c = .ok i ↔ mbzField c = 0 ∧ decodeOpc (opcField c) = .ok i := by
  rw [decode]
  split
  next h => exact ⟨nofun, fun ⟨hmbz, _⟩ => absurd hmbz h⟩
  next h => exact ⟨fun hd => ⟨not_not.mp h, hd⟩, And.right⟩

/-- Settles O3: an accepted word is zeros above an OPC, which determines it, and `decode_encode` is the way back. -/
theorem decodeAndEncodeAgree : Obligations.DecodeAndEncodeAgree := by
  intro c i
  constructor
  · intro h
    obtain ⟨hmbz, hopc⟩ := decode_eq_ok_iff.mp h
    calc c = mbzField c ++ opcField c := (mbzField_append_opcField c).symm
      _ = 0#28 ++ opcField c := by rw [hmbz]; rfl
      _ = encode i := encode_of_decodeOpc hopc
  · rintro rfl
    exact decode_encode i

/-- Settles O1: each of the words is the encoding of its row. -/
theorem listedWordsDecodeToTheirRows : Obligations.ListedWordsDecodeToTheirRows :=
  ⟨decode_encode .pdeg, decode_encode .pred, decode_encode .fnew, decode_encode .fmul, decode_encode .finv,
    decode_encode .reservedOpc6⟩

theorem isIllegal_encode (i : Instr) : isIllegal (encode i) = i.isReserved := by
  simp [isIllegal, decode_encode]

/-- The legal words are those of the rows that are not reserved. -/
theorem isIllegal_eq_false_iff (c : Word) : isIllegal c = false ↔ ∃ i : Instr, i.isReserved = false ∧ c = encode i := by
  constructor
  · intro h
    cases hd : decode c with
    | ok i =>
      have hc : c = encode i := (decodeAndEncodeAgree c i).mp hd
      exact ⟨i, by rw [← isIllegal_encode, ← hc, h], hc⟩
    | error r => simp [isIllegal, hd] at h
  · rintro ⟨i, hi, rfl⟩
    rw [isIllegal_encode, hi]

/-- Settles O2: a word with MBZ set is rejected, and of the words the decoder accepts, those of the nine rows that are not
reserved are legal. -/
theorem decodingIsTotalAndNineWordsAreLegal : Obligations.DecodingIsTotalAndNineWordsAreLegal := by
  refine ⟨fun c => isIllegal_of_mbz, ?rows, ?reserved, fun c => (isIllegal_eq_false_iff c).trans ⟨?_, ?_⟩⟩
  case rows =>
    exact ⟨decode_encode .pdeg, decode_encode .ptrim, decode_encode .padd, decode_encode .pmul, decode_encode .pred,
      decode_encode .fnew, decode_encode .fadd, decode_encode .fmul, decode_encode .finv⟩
  case reserved =>
    simp only [List.forall_mem_cons, List.not_mem_nil, false_imp_iff, implies_true, and_true]
    exact ⟨isIllegal_encode .reservedOpc0, isIllegal_encode .reservedOpc6, isIllegal_encode .reservedOpc7,
      isIllegal_encode .reservedOpcC, isIllegal_encode .reservedOpcD, isIllegal_encode .reservedOpcE,
      isIllegal_encode .reservedOpcF⟩
  · rintro ⟨i, hi, rfl⟩
    revert hi
    cases i <;> decide
  · intro hc
    simp only [List.mem_cons, List.not_mem_nil, or_false] at hc
    obtain rfl | rfl | rfl | rfl | rfl | rfl | rfl | rfl | rfl := hc
    · exact ⟨.pdeg, rfl, rfl⟩
    · exact ⟨.ptrim, rfl, rfl⟩
    · exact ⟨.padd, rfl, rfl⟩
    · exact ⟨.pmul, rfl, rfl⟩
    · exact ⟨.pred, rfl, rfl⟩
    · exact ⟨.fnew, rfl, rfl⟩
    · exact ⟨.fadd, rfl, rfl⟩
    · exact ⟨.fmul, rfl, rfl⟩
    · exact ⟨.finv, rfl, rfl⟩

/-- Settles O31: a reserved row is `exec_reserved`, and the error tail is a failure with its code. -/
theorem reservedOpcodesAreIllegalCommand : Obligations.ReservedOpcodesAreIllegalCommand := fun s =>
  have illegal {i : Instr} (hi : i.isReserved = true) : exec i s = .next (s.failedWith 1) := exec_reserved hi s
  ⟨illegal rfl, illegal rfl, illegal rfl, illegal rfl, illegal rfl, illegal rfl, illegal rfl⟩

end Sys2Proof

end

/-! The POLY format (R71): the fields LEN and COEF, and a pair's way into a register and back. -/
section

namespace Sys2Proof

theorem toReg_toPoly (w : PolyReg) : (PolyReg.toPoly w).toReg = w := by
  simp only [BinPoly.toReg, PolyReg.toPoly, BitVec.ofNat_toNat, BitVec.setWidth_eq]
  rw [BitVec.extractLsb'_append_extractLsb'_eq_extractLsb' (by rfl), BitVec.extractLsb'_eq_self]

/-- A pair that the two fields hold is read back from them. -/
theorem toPoly_toReg {p : BinPoly} (hlen : p.len < 32) (hval : p.val < 2 ^ 16) : PolyReg.toPoly p.toReg = p := by
  simp only [PolyReg.toPoly, BinPoly.toReg, BitVec.extractLsb'_append_eq_left, BitVec.extractLsb'_append_eq_right,
    BitVec.toNat_ofNat]
  rw [Nat.mod_eq_of_lt hlen, Nat.mod_eq_of_lt hval]

theorem toPoly_val_testBit (w : PolyReg) {i : Nat} (hi : i < 16) :
    (PolyReg.toPoly w).val.testBit i = w.getLsbD i := by
  rw [PolyReg.toPoly, BitVec.testBit_toNat, BitVec.getLsbD_extractLsb']
  simp [hi]

theorem toPoly_len_testBit (w : PolyReg) {i : Nat} (hi : i < 5) :
    (PolyReg.toPoly w).len.testBit i = w.getLsbD (16 + i) := by
  rw [PolyReg.toPoly, BitVec.testBit_toNat, BitVec.getLsbD_extractLsb']
  simp [hi]

/-- Settles O4: the two fields are the two halves of the word. -/
theorem polyWordHoldsAPair : Obligations.PolyWordHoldsAPair :=
  ⟨toReg_toPoly, fun _ => toPoly_toReg, fun w _ => toPoly_val_testBit w, fun w _ => toPoly_len_testBit w⟩

end Sys2Proof

end

/-! The statements of a host program (R82), one equation each. -/
section

namespace Sys2Proof.Machine

section statements

variable {s : State}

theorem hostTurn_wr {r : HostReg} {v : HostValue} (h : s.currentStmt = some (.wr r v)) :
    hostTurn s = hostWrite r.toIndex (v.eval s.host) (s.setHost s.host.advance) := by
  simp [hostTurn, h]

theorem hostTurn_rd {r : HostReg} (h : s.currentStmt = some (.rd r)) :
    hostTurn s = s.setHost (s.host.record (hostRead r.toIndex s)).advance := by
  simp [hostTurn, h]

theorem hostTurn_label {l : Nat} (h : s.currentStmt = some (.label l)) : hostTurn s = s.setHost s.host.advance := by
  simp [hostTurn, h]

theorem hostTurn_jbit {n : Fin 32} {l : Nat} (h : s.currentStmt = some (.jbit n l)) :
    hostTurn s = s.setHost (if s.host.last.getLsbD n then s.host.goto l else s.host.advance) := by
  simp [hostTurn, h]

theorem hostTurn_jmp {l : Nat} (h : s.currentStmt = some (.jmp l)) : hostTurn s = s.setHost (s.host.goto l) := by
  simp [hostTurn, h]

theorem hostTurn_ended (h : s.currentStmt = some .halt ∨ s.currentStmt = none) : hostTurn s = s := by
  obtain h | h := h <;> simp [hostTurn, h]

end statements

/-- A jump goes to the first statement that declares its label. -/
theorem goto_eq_of_first {h : HostAgent} {l p : Nat} (hp : h.prog[p]? = some (.label l))
    (hfirst : ∀ q < p, h.prog[q]? ≠ some (.label l)) : h.goto l = { h with pos := p } := by
  obtain ⟨hlt, hget⟩ := List.getElem?_eq_some_iff.mp hp
  have hfind : h.prog.findIdx? (· == HostStmt.label l) = some p := by
    refine List.findIdx?_eq_some_iff_getElem.mpr ⟨hlt, by simp [hget], fun q hq heq => hfirst q hq ?_⟩
    rw [List.getElem?_eq_getElem (hq.trans hlt), beq_iff_eq.mp heq]
  rw [HostAgent.goto, hfind, Option.getD_some]

/-- Settles O16: a step on the host's turn is the statement at `pos`, in the state whose turn is taken. -/
theorem hostStatementsFollowR82 : Obligations.HostStatementsFollowR82 := by
  intro s hturn u next
  rw [step_of_host hturn]
  refine ⟨fun r w h => ?wrWord, fun r h => ?wrLast, fun r h => ?rd, fun l h => ?label, fun n l h hbit => ?stay,
    fun n l p h hbit hp hfirst => ?jump, fun l p h hp hfirst => ?jmp, fun h => ?ended⟩
  case wrWord => rw [hostTurn_wr (s := s.popTurn) h]; rfl
  case wrLast => rw [hostTurn_wr (s := s.popTurn) h]; rfl
  case rd => rw [hostTurn_rd (s := s.popTurn) h]; rfl
  case label => rw [hostTurn_label (s := s.popTurn) h]; rfl
  case stay => rw [hostTurn_jbit (s := s.popTurn) h, popTurn_host, hbit]; rfl
  case jump => rw [hostTurn_jbit (s := s.popTurn) h, popTurn_host, if_pos hbit, goto_eq_of_first hp hfirst]; rfl
  case jmp => rw [hostTurn_jmp (s := s.popTurn) h, popTurn_host, goto_eq_of_first hp hfirst]; rfl
  case ended => rw [hostTurn_ended (s := s.popTurn) h]; rfl

end Sys2Proof.Machine

end

/-! Trimmed lengths: `trimmedLen v` is one more than the degree of `v`, and 0 for the zero polynomial, so that statements
about degrees need no case for zero. -/
section

namespace Sys2Proof

theorem trimmedLen_of_ne_zero {v : Nat} (hv : v ≠ 0) : trimmedLen v = hibit v + 1 := if_neg hv

@[simp] theorem trimmedLen_eq_zero_iff (v : Nat) : trimmedLen v = 0 ↔ v = 0 := by
  simp [trimmedLen]

theorem trimmedLen_pos_iff (v : Nat) : 0 < trimmedLen v ↔ v ≠ 0 := by
  rw [Nat.pos_iff_ne_zero, Ne, trimmedLen_eq_zero_iff]

theorem pair_iff_trimmedLen_le (p : BinPoly) : p.Pair ↔ trimmedLen p.val ≤ p.len := (trimmedLen_le_iff _ _).symm

theorem trimmedLen_mono {x y : Nat} (h : x ≤ y) : trimmedLen x ≤ trimmedLen y :=
  (trimmedLen_le_iff _ _).mpr (h.trans_lt ((trimmedLen_le_iff _ _).mp le_rfl))

theorem trimmedLen_one_shiftLeft (k : Nat) : trimmedLen (1 <<< k) = k + 1 := by
  rw [Nat.one_shiftLeft, trimmedLen_of_ne_zero (Nat.two_pow_pos k).ne', hibit, Nat.log2_two_pow]

theorem trimmedLen_or (x y : Nat) : trimmedLen (x ||| y) = max (trimmedLen x) (trimmedLen y) := by
  apply le_antisymm
  · rw [trimmedLen_le_iff]
    exact Nat.or_lt_two_pow ((trimmedLen_le_iff _ _).mp (le_max_left _ _)) ((trimmedLen_le_iff _ _).mp (le_max_right _ _))
  · exact max_le (trimmedLen_mono Nat.left_le_or) (trimmedLen_mono Nat.right_le_or)

theorem trimmedLen_xor_le (x y : Nat) : trimmedLen (x ^^^ y) ≤ max (trimmedLen x) (trimmedLen y) := by
  rw [trimmedLen_le_iff]
  exact Nat.xor_lt_two_pow ((trimmedLen_le_iff _ _).mp (le_max_left _ _)) ((trimmedLen_le_iff _ _).mp (le_max_right _ _))

/-- A shorter summand does not reach the top bit of the longer one. -/
theorem trimmedLen_xor_of_lt {x y : Nat} (h : trimmedLen x < trimmedLen y) : trimmedLen (x ^^^ y) = trimmedLen y := by
  have hle := trimmedLen_xor_le x y
  have hback := trimmedLen_xor_le x (x ^^^ y)
  rw [Nat.xor_xor_cancel_left] at hback
  omega

/-- Equal top bits cancel. -/
theorem trimmedLen_xor_lt_of_eq {x y : Nat} (hx : x ≠ 0) (h : trimmedLen x = trimmedLen y) :
    trimmedLen (x ^^^ y) < trimmedLen x := by
  have hy : y ≠ 0 := by rwa [Ne, ← trimmedLen_eq_zero_iff, ← h, trimmedLen_eq_zero_iff]
  have htop : hibit y = hibit x := by
    rw [trimmedLen_of_ne_zero hx, trimmedLen_of_ne_zero hy] at h
    omega
  rw [trimmedLen_of_ne_zero hx, Nat.lt_succ_iff, trimmedLen_le_iff]
  refine Nat.lt_pow_two_of_testBit _ fun i hi => ?_
  rw [Nat.testBit_xor]
  obtain rfl | hlt := hi.eq_or_lt
  · have hxtop : x.testBit (hibit x) = true := Nat.testBit_log2 hx
    have hytop : y.testBit (hibit y) = true := Nat.testBit_log2 hy
    rw [hxtop, ← htop, hytop, Bool.xor_self]
  · have hxi : x < 2 ^ i := (lt_two_pow_hibit_succ x).trans_le (Nat.pow_le_pow_right (by decide) hlt)
    have hyi : y < 2 ^ i := (lt_two_pow_hibit_succ y).trans_le (Nat.pow_le_pow_right (by decide) (htop ▸ hlt))
    rw [Nat.testBit_lt_two_pow hxi, Nat.testBit_lt_two_pow hyi, Bool.xor_self]

/-- Law 6 of R107, in lengths. -/
theorem trimmedLen_clmul {x y : Nat} (hx : x ≠ 0) (hy : y ≠ 0) :
    trimmedLen (clmul x y) = trimmedLen x + trimmedLen y - 1 := by
  rw [trimmedLen_of_ne_zero (clmul_ne_zero hx hy), trimmedLen_of_ne_zero hx, trimmedLen_of_ne_zero hy, hibit_clmul hx hy]
  omega

theorem trimmedLen_shiftLeft {v : Nat} (hv : v ≠ 0) (k : Nat) : trimmedLen (v <<< k) = trimmedLen v + k := by
  have hk : 1 <<< k ≠ 0 := (trimmedLen_pos_iff _).mp (by rw [trimmedLen_one_shiftLeft]; exact k.succ_pos)
  rw [← clmul_one_shiftLeft, trimmedLen_clmul hv hk, trimmedLen_one_shiftLeft]
  omega

theorem trimmed_iff (p : BinPoly) : p.Trimmed ↔ p.len = trimmedLen p.val := by
  constructor
  · intro h
    rw [← trim_len, h]
  · intro h
    rw [BinPoly.Trimmed, trim_eq, ← h]

theorem trim_trimmed (p : BinPoly) : p.trim.Trimmed := by
  rw [trimmed_iff, trim_len, trim_val]

theorem trim_pair (p : BinPoly) : p.trim.Pair := by
  rw [pair_iff_trimmedLen_le, trim_len, trim_val]

end Sys2Proof

end

/-! Lengths of the primitives' results (R102 to R105). -/
section

namespace Sys2Proof

theorem trim_fits {p : BinPoly} {n : Nat} (h : p.Fits n) : p.trim.Fits n := by
  refine ⟨?_, trim_pair p⟩
  rw [trim_len]
  exact ((pair_iff_trimmedLen_le p).mp h.2).trans h.1

theorem add_pair {a b : BinPoly} (ha : a.Pair) (hb : b.Pair) : (a.add b).Pair := by
  rw [pair_iff_trimmedLen_le] at *
  exact (trimmedLen_xor_le _ _).trans (max_le_max ha hb)

theorem add_fits {a b : BinPoly} {n : Nat} (ha : a.Fits n) (hb : b.Fits n) : (a.add b).Fits n :=
  ⟨max_le ha.1 hb.1, add_pair ha.2 hb.2⟩

theorem val_eq_zero_of_pair {p : BinPoly} (hp : p.Pair) (hlen : p.len = 0) : p.val = 0 := by
  rw [pair_iff_trimmedLen_le, hlen] at hp
  simpa using hp

theorem clmul_eq_zero {x y : Nat} (h : x = 0 ∨ y = 0) : clmul x y = 0 := by
  obtain rfl | rfl := h
  · rw [clmul_comm, clmul_zero_right]
  · exact clmul_zero_right x

/-- On pairs, the product with an empty sequence is no exception to the values' product. -/
theorem multiply_val {a b : BinPoly} (ha : a.Pair) (hb : b.Pair) : (a.multiply b).val = clmul a.val b.val := by
  by_cases h : a.len = 0 ∨ b.len = 0
  · rw [multiply_of_empty h, clmul_eq_zero (h.imp (val_eq_zero_of_pair ha) (val_eq_zero_of_pair hb))]
    rfl
  · rw [multiply_of_nonempty h]

theorem multiply_len (a b : BinPoly) :
    (a.multiply b).len = if a.len = 0 ∨ b.len = 0 then 0 else a.len + b.len - 1 := by
  rw [BinPoly.multiply]
  split <;> rfl

theorem multiply_pair {a b : BinPoly} (ha : a.Pair) (hb : b.Pair) : (a.multiply b).Pair := by
  rw [pair_iff_trimmedLen_le, multiply_val ha hb]
  by_cases hzero : a.val = 0 ∨ b.val = 0
  · rw [clmul_eq_zero hzero]
    exact Nat.zero_le _
  · obtain ⟨hane, hbne⟩ := not_or.mp hzero
    have hapos := (trimmedLen_pos_iff _).mpr hane
    have hbpos := (trimmedLen_pos_iff _).mpr hbne
    rw [pair_iff_trimmedLen_le] at ha hb
    rw [trimmedLen_clmul hane hbne, multiply_len, if_neg (by omega)]
    omega

/-- A pass of the division loop takes the remainder's top bit. -/
theorem trimmedLen_pass_lt {m r : Nat} (hm : m ≠ 0) (hr : r ≠ 0) (h : hibit m ≤ hibit r) :
    trimmedLen (r ^^^ m <<< (hibit r - hibit m)) < trimmedLen r := by
  refine trimmedLen_xor_lt_of_eq hr ?_
  rw [trimmedLen_shiftLeft hm, trimmedLen_of_ne_zero hm, trimmedLen_of_ne_zero hr]
  omega

/-- What the division loop leaves when it has enough fuel: the first pass sets the quotient's top bit, and the passes go on
until the remainder is shorter than the divisor. -/
theorem divLoop_lengths {m : Nat} (hm : m ≠ 0) {fuel q r q' r' : Nat} (hfuel : trimmedLen r ≤ fuel)
    (h : divLoop (hibit m) m fuel (q, r) = (q', r')) :
    trimmedLen q' = max (trimmedLen q) (trimmedLen r + 1 - trimmedLen m) ∧ trimmedLen r' ≤ trimmedLen r ∧
      trimmedLen r' < trimmedLen m := by
  have hmlen := trimmedLen_of_ne_zero hm
  induction fuel generalizing q r with
  | zero =>
    have hr : trimmedLen r = 0 := Nat.le_zero.mp hfuel
    cases h
    omega
  | succ fuel ih =>
    by_cases hpass : r ≠ 0 ∧ hibit m ≤ hibit r
    · rw [divLoop_pass _ _ _ _ _ hpass] at h
      obtain ⟨hr, hdeg⟩ := hpass
      have hrlen := trimmedLen_of_ne_zero hr
      have hlt := trimmedLen_pass_lt hm hr hdeg
      obtain ⟨hq', hr', hlast⟩ := ih (by omega) h
      rw [trimmedLen_or, trimmedLen_one_shiftLeft] at hq'
      omega
    · have hshort : trimmedLen r < trimmedLen m := by
        by_cases hr : r = 0
        · have hrlen := (trimmedLen_eq_zero_iff r).mpr hr
          omega
        · have hrlen := trimmedLen_of_ne_zero hr
          have hdeg : ¬ hibit m ≤ hibit r := fun hdeg => hpass ⟨hr, hdeg⟩
          omega
      rw [divLoop_end _ _ _ _ _ hpass] at h
      cases h
      omega

/-- The lengths of a division of `p` by `m` with quotient `q` and remainder `r` (R105). -/
structure DivisionLengths (p m q r : BinPoly) : Prop where
  quotient_trimmed : q.Trimmed
  quotient_len : q.len = trimmedLen p.val + 1 - trimmedLen m.val
  remainder_len : r.len = p.len
  remainder_le : trimmedLen r.val ≤ trimmedLen p.val
  remainder_lt : trimmedLen r.val < trimmedLen m.val

/-- A division by a nonzero polynomial raises nothing (R106). -/
theorem reduce_of_ne_zero (p : BinPoly) {m : BinPoly} (hm : m.val ≠ 0) :
    ∃ q r, p.reduce m = .ok (q, r) ∧ DivisionLengths p m q r := by
  obtain ⟨hzero, -⟩ | ⟨-, q, r, hloop, hreduce⟩ := reduce_cases p m
  · exact absurd hzero hm
  · have hfuel : trimmedLen p.val ≤ hibit p.val + 1 := (trimmedLen_le_iff _ _).mpr (lt_two_pow_hibit_succ _)
    obtain ⟨hq, hle, hlt⟩ := divLoop_lengths hm hfuel hloop
    refine ⟨_, _, hreduce, trim_trimmed _, ?_, rfl, hle, hlt⟩
    rw [trim_len, hq]
    simp [trimmedLen]

theorem reduce_of_zero (p : BinPoly) {m : BinPoly} (hm : m.val = 0) : p.reduce m = .error .divisionByZero := by
  simp [BinPoly.reduce, hm]

/-- A dividend shorter than the divisor is its own remainder. -/
theorem reduce_of_shorter {p m : BinPoly} (h : trimmedLen p.val < trimmedLen m.val) :
    p.reduce m = .ok (.empty, p) := by
  have hm : m.val ≠ 0 := (trimmedLen_pos_iff _).mp (by omega)
  have hend : ¬ (p.val ≠ 0 ∧ hibit m.val ≤ hibit p.val) := by
    rintro ⟨hp, hdeg⟩
    rw [trimmedLen_of_ne_zero hp, trimmedLen_of_ne_zero hm] at h
    omega
  obtain ⟨hzero, -⟩ | ⟨-, q, r, hloop, hreduce⟩ := reduce_cases p m
  · exact absurd hzero hm
  · rw [divLoop_end _ _ _ _ _ hend] at hloop
    cases hloop
    exact hreduce

theorem quotient_fits {p m q r : BinPoly} {n : Nat} (hp : p.Fits n) (h : DivisionLengths p m q r) : q.Fits n := by
  have hq := (trimmed_iff q).mp h.quotient_trimmed
  have hplen := (pair_iff_trimmedLen_le p).mp hp.2
  have hm := h.remainder_lt
  have hqlen := h.quotient_len
  exact ⟨by omega, (pair_iff_trimmedLen_le q).mpr hq.ge⟩

theorem remainder_pair {p m q r : BinPoly} (hp : p.Pair) (h : DivisionLengths p m q r) : r.Pair := by
  rw [pair_iff_trimmedLen_le] at *
  exact h.remainder_len ▸ h.remainder_le.trans hp

theorem remainder_fits {p m q r : BinPoly} {n : Nat} (hp : p.Fits n) (h : DivisionLengths p m q r) : r.Fits n :=
  ⟨h.remainder_len ▸ hp.1, remainder_pair hp.2 h⟩

end Sys2Proof

end

/-! Field elements as results (R42): what the field operations and the engine hand to the success tail. -/
section

namespace Sys2Proof

theorem trim_isElement {p : BinPoly} (h : p.val < 256) : p.trim.IsElement := ⟨p.val, h, trim_eq p⟩

theorem isElement_val_lt {p : BinPoly} (h : p.IsElement) : p.val < 256 := by
  obtain ⟨v, hv, rfl⟩ := h
  exact hv

theorem isElement_iff_canon8 (p : BinPoly) : p.IsElement ↔ p.canon8 = true := (canonicalOperandsAreFieldElements p).symm

theorem isElement_fits {p : BinPoly} (h : p.IsElement) : p.Fits 16 := by
  obtain ⟨hfits, -⟩ := (canon8_iff p).mp ((isElement_iff_canon8 p).mp h)
  exact hfits

theorem fadd_isElement {a b : BinPoly} (ha : a.IsElement) (hb : b.IsElement) : (a.fadd b).IsElement :=
  trim_isElement (Nat.xor_lt_two_pow (n := 8) (isElement_val_lt ha) (isElement_val_lt hb))

/-- A remainder modulo MOD has at most 8 coefficients, so the field product raises nothing and is an element. -/
theorem fmul_isElement (a b : BinPoly) : ∃ p, a.fmul b = .ok p ∧ p.IsElement := by
  obtain ⟨q, r, hreduce, hlen⟩ := reduce_of_ne_zero (a.multiply b) (m := Config.MOD) (by decide)
  have hr : trimmedLen r.val ≤ 8 := Nat.le_of_lt_succ hlen.remainder_lt
  exact ⟨r.trim, by rw [BinPoly.fmul, hreduce], trim_isElement ((trimmedLen_le_iff _ _).mp hr)⟩

namespace Machine

/-- An engine state of the run on a nonzero element, from the end of its first step on (R156, R157): remainders get shorter
and coefficients longer, and a coefficient is as long as the remainder before its own leaves room for. -/
structure Engine.InRun (e : Engine) : Prop where
  rPrev_fits : e.rPrev.Fits 9
  rCur_fits : e.rCur.Fits 9
  sPrev_pair : e.sPrev.Pair
  sCur_pair : e.sCur.Pair
  rCur_pos : 0 < trimmedLen e.rCur.val
  rCur_lt : trimmedLen e.rCur.val < trimmedLen e.rPrev.val
  sPrev_lt : trimmedLen e.sPrev.val < trimmedLen e.sCur.val
  sPrev_room : e.sPrev.len + trimmedLen e.rCur.val ≤ 10
  sCur_room : e.sCur.len + trimmedLen e.rPrev.val ≤ 10
  counted : 1 ≤ e.n
  count_room : e.n + trimmedLen e.rCur.val ≤ 9

section run

variable {e : Engine}

/-- The next coefficient is longer than the current one: the quotient of the longer remainder by the shorter is not
constant. -/
theorem inRun_next_coefficient (he : e.InRun) {q r : BinPoly} (h : DivisionLengths e.rPrev e.rCur q r) :
    trimmedLen e.sCur.val < trimmedLen (e.sPrev.add (q.multiply e.sCur)).val := by
  have hq := (trimmed_iff q).mp h.quotient_trimmed
  have hqlen := h.quotient_len
  have hrCur := he.rCur_lt
  have hsPrev := he.sPrev_lt
  have hqne : q.val ≠ 0 := (trimmedLen_pos_iff _).mp (by omega)
  have hsne : e.sCur.val ≠ 0 := (trimmedLen_pos_iff _).mp (by omega)
  have hproduct := trimmedLen_clmul hqne hsne
  rw [add_val, multiply_val ((pair_iff_trimmedLen_le q).mpr hq.ge) he.sCur_pair, trimmedLen_xor_of_lt (by omega)]
  omega

/-- A step that goes on stays in the run. -/
theorem inRun_cont (he : e.InRun) {q r : BinPoly} (h : DivisionLengths e.rPrev e.rCur q r) (hr : r.val ≠ 0) :
    Engine.InRun { rPrev := e.rCur, rCur := r, sPrev := e.sCur, sCur := e.sPrev.add (q.multiply e.sCur),
                   n := e.n + 1 } where
  rPrev_fits := he.rCur_fits
  rCur_fits := remainder_fits he.rPrev_fits h
  sPrev_pair := he.sCur_pair
  sCur_pair :=
    add_pair he.sPrev_pair (multiply_pair (by rw [pair_iff_trimmedLen_le, ← (trimmed_iff q).mp h.quotient_trimmed])
      he.sCur_pair)
  rCur_pos := (trimmedLen_pos_iff _).mpr hr
  rCur_lt := h.remainder_lt
  sPrev_lt := inRun_next_coefficient he h
  sPrev_room := (Nat.add_le_add_left h.remainder_le _).trans he.sCur_room
  sCur_room := by
    obtain ⟨-, -, -, -, -, hrCur, -, hsPrev, hsCur, -, -⟩ := he
    have hqlen := h.quotient_len
    simp only [add_len, multiply_len]
    split <;> omega
  counted := Nat.le_add_left _ _
  count_room := by
    have hlt := h.remainder_lt
    have hcount := he.count_room
    simp only
    omega

/-- Wherever the run stops, it has raised nothing (R152). -/
theorem inRun_run (he : e.InRun) (fuel : Nat) : ∃ e', Engine.run fuel e = .ok e' ∧ e'.InRun := by
  induction fuel generalizing e with
  | zero => exact ⟨e, rfl, he⟩
  | succ fuel ih =>
    have hne : e.rCur.val ≠ 0 := (trimmedLen_pos_iff _).mp he.rCur_pos
    obtain ⟨hzero, -⟩ | ⟨-, q, r, hreduce, hstep⟩ := engineStep_cases e
    · exact absurd hzero hne
    · obtain ⟨q', r', hreduce', hlen⟩ := reduce_of_ne_zero e.rPrev hne
      cases hreduce.symm.trans hreduce'
      obtain ⟨-, hdone⟩ | ⟨hr, hcont⟩ := hstep
      · exact ⟨e, engineRun_done hdone _, he⟩
      · rw [engineRun_cont hcont]
        exact ih (inRun_cont he hlen hr)

/-- The first step only swaps: an element is shorter than MOD, so it is its own remainder. -/
theorem engineStep_init {a : BinPoly} (hlen : trimmedLen a.val ≤ 8) (ha : a.val ≠ 0) :
    (Engine.init a).step =
      .ok (.cont { rPrev := Config.MOD, rCur := a, sPrev := .empty, sCur := .one, n := 1 }) := by
  have hreduce : a.reduce Config.MOD = .ok (.empty, a) := reduce_of_shorter (Nat.lt_succ_of_le hlen)
  have hz : a.isZero = false := (isZero_eq_false a).mpr ha
  simp only [Engine.step, Engine.init, hreduce, hz]
  rfl

theorem inRun_second {a : BinPoly} (ha : a.IsElement) (hne : a.val ≠ 0) :
    Engine.InRun { rPrev := Config.MOD, rCur := a, sPrev := .empty, sCur := .one, n := 1 } := by
  obtain ⟨⟨-, hpair⟩, hlen, hcanon⟩ := (canon8_iff a).mp ((isElement_iff_canon8 a).mp ha)
  have hshort : trimmedLen a.val ≤ 8 := hcanon ▸ hlen
  exact
    { rPrev_fits := (by decide : Config.MOD.Fits 9)
      rCur_fits := ⟨Nat.le_succ_of_le hlen, hpair⟩
      sPrev_pair := (by decide : BinPoly.empty.Pair)
      sCur_pair := (by decide : BinPoly.one.Pair)
      rCur_pos := (trimmedLen_pos_iff _).mpr hne
      rCur_lt := hshort.trans_lt (by decide : 8 < trimmedLen Config.MOD.val)
      sPrev_lt := (by decide : trimmedLen 0 < trimmedLen 1)
      sPrev_room := (Nat.add_le_add_left hshort 0).trans (by decide)
      sCur_room := (by decide : 1 + trimmedLen Config.MOD.val ≤ 10)
      counted := le_rfl
      count_room := Nat.add_le_add_left hshort 1 }

/-- On a nonzero element the engine raises nothing and stops in a state of the run. -/
theorem runOn_inRun {a : BinPoly} (ha : a.IsElement) (hne : a.val ≠ 0) : ∃ e, Engine.runOn a = .ok e ∧ e.InRun := by
  have hlen : trimmedLen a.val ≤ 8 := (trimmedLen_le_iff _ _).mpr (isElement_val_lt ha)
  have hfuel : hibit Config.MOD.val = 7 + 1 := by decide
  rw [Engine.runOn, hfuel, engineRun_cont (engineStep_init hlen hne)]
  exact inRun_run (inRun_second ha hne) 7

theorem inRun_sized (he : e.InRun) : e.Sized := by
  obtain ⟨hrPrev, hrCur, hsPrev, hsCur, hpos, hlt, -, hprev, hcur, -, hcount⟩ := he
  exact ⟨hrPrev, hrCur, ⟨by omega, hsPrev⟩, ⟨by omega, hsCur⟩, by omega⟩

/-- The current coefficient is a nonzero polynomial of at most 8 coefficients: the remainder before its own is not
constant. -/
theorem inRun_result (he : e.InRun) : e.result.IsElement ∧ e.result.val ≠ 0 := by
  obtain ⟨-, -, -, hpair, hpos, hlt, hrising, -, hroom, -, -⟩ := he
  have hlen := (pair_iff_trimmedLen_le _).mp hpair
  refine ⟨trim_isElement ((trimmedLen_le_iff _ 8).mp (by omega)), ?_⟩
  rw [Engine.result, trim_val, ← trimmedLen_pos_iff]
  omega

theorem inRun_steps (he : e.InRun) : 2 ≤ e.steps ∧ e.steps ≤ 9 := by
  have hpos := he.rCur_pos
  have hcounted := he.counted
  have hroom := he.count_room
  rw [Engine.steps]
  omega

end run

end Machine

end Sys2Proof

end

/-! Commands by their errors (R171 to R178): `errorOf` is the error a command ends in, and `CommandOutcome` says what a
command leaves when it ends in none. -/
section

namespace Sys2Proof.Machine

/-- The error of command `i` on the operands latched in `s`, in the order of R178; `none` where the command succeeds. -/
def errorOf (i : Instr) (s : State) : Option ErrCode :=
  match i with
  | .pdeg | .ptrim => if s.operandA.Fits 16 then none else some .invalidOperand
  | .padd => if s.operandA.Fits 16 ∧ s.operandB.Fits 16 then none else some .invalidOperand
  | .pmul =>
    if ¬ (s.operandA.Fits 16 ∧ s.operandB.Fits 16) then some .invalidOperand
    else if 0 < s.operandA.len ∧ 0 < s.operandB.len ∧ 16 < s.operandA.len + s.operandB.len - 1 then some .overflow
    else none
  | .pred =>
    if ¬ (s.operandA.Fits 16 ∧ s.operandB.Fits 16) then some .invalidOperand
    else if s.operandB.val = 0 then some .divisionByZero
    else none
  | .fnew =>
    if 8 < s.operandA.len then some .invalidLength
    else if ¬ s.operandA.Pair then some .invalidOperand
    else none
  | .fadd | .fmul => if s.operandA.canon8 ∧ s.operandB.canon8 then none else some .invalidOperand
  | .finv =>
    if ¬ s.operandA.canon8 then some .invalidOperand
    else if s.operandA.val = 0 then some .noInverse
    else none
  | .reservedOpc0 | .reservedOpc6 | .reservedOpc7 | .reservedOpcC | .reservedOpcD | .reservedOpcE | .reservedOpcF =>
    some .illegalCommand

/-- The results `r0` and `r1` are what R74 asks of a success of command `i`. -/
structure SoundResults (i : Instr) (r0 r1 : BinPoly) : Prop where
  primary_fits : r0.Fits 16
  secondary_fits : r1.Fits 16
  element : i ∈ [.fnew, .fadd, .fmul, .finv] → r0.IsElement
  trimmed : i ∈ [.ptrim, .pred] → r0.Trimmed

theorem empty_fits (n : Nat) : BinPoly.empty.Fits n := ⟨n.zero_le, by decide⟩

/-- An element is a sound result of every command: it is trimmed. -/
theorem soundResults_of_element {i : Instr} {r : BinPoly} (h : r.IsElement) : SoundResults i r .empty where
  primary_fits := isElement_fits h
  secondary_fits := empty_fits 16
  element := fun _ => h
  trimmed := fun _ => by
    obtain ⟨v, -, rfl⟩ := h
    exact (trimmed_iff _).mpr rfl

/-- The state `t` in which command `i` ends: by the error `errorOf` gives, or without one in a success with sound results,
of which one that comes from the engine also writes ITER and the engine's registers. -/
inductive CommandOutcome (i : Instr) (s : State) : State → Prop
  | error (c : ErrCode) : errorOf i s = some c → CommandOutcome i s (raiseError c s)
  | plain (r0 r1 : BinPoly) : errorOf i s = none → SoundResults i r0 r1 → CommandOutcome i s (success r0 r1 0 s)
  | inverse (e : Engine) : errorOf i s = none → e.InRun →
      CommandOutcome i s (success e.result .empty e.steps (s.setEngine e))

section outcomes

variable {i : Instr} {s t : State}

theorem outcome_of_raise {c : ErrCode} (h : Host.Outcome.next (φ := Fault) (ρ := Refusal) (raiseError c s) = .next t)
    (hc : errorOf i s = some c) : CommandOutcome i s t := by
  cases h
  exact .error c hc

theorem outcome_of_success {r0 r1 : BinPoly}
    (h : Host.Outcome.next (φ := Fault) (ρ := Refusal) (success r0 r1 0 s) = .next t) (hc : errorOf i s = none)
    (hr : SoundResults i r0 r1) : CommandOutcome i s t := by
  cases h
  exact .plain r0 r1 hc hr

/-- A check in front of a command raises the error of the command, or leaves what the check asks. -/
theorem outcome_of_check {p : Bool} {c : ErrCode} {o : Host.Outcome State Fault Refusal}
    (h : (if !p then .next (raiseError c s) else o) = .next t) (hc : ¬ p = true → errorOf i s = some c)
    (ho : p = true → o = .next t → CommandOutcome i s t) : CommandOutcome i s t := by
  cases p with
  | true => exact ho rfl h
  | false => exact outcome_of_raise h (hc nofun)

/-- The check of one operand's form. -/
theorem outcome_of_wf_check {o : Host.Outcome State Fault Refusal} {p : BinPoly}
    (h : (if !p.wf then .next (raiseError .invalidOperand s) else o) = .next t)
    (hc : ¬ p.Fits 16 → errorOf i s = some .invalidOperand)
    (ho : p.Fits 16 → o = .next t → CommandOutcome i s t) : CommandOutcome i s t :=
  outcome_of_check h (fun hw => hc ((wf_iff_fits p).not.mp hw)) fun hw => ho ((wf_iff_fits p).mp hw)

/-- The checks of the forms of two operands. -/
theorem outcome_of_wf_checks {o : Host.Outcome State Fault Refusal}
    (h : (if !s.operandA.wf then .next (raiseError .invalidOperand s)
      else if !s.operandB.wf then .next (raiseError .invalidOperand s) else o) = .next t)
    (hc : ¬ (s.operandA.Fits 16 ∧ s.operandB.Fits 16) → errorOf i s = some .invalidOperand)
    (ho : s.operandA.Fits 16 → s.operandB.Fits 16 → o = .next t → CommandOutcome i s t) : CommandOutcome i s t :=
  outcome_of_wf_check h (fun hA => hc fun hAB => hA hAB.1) fun hA h =>
    outcome_of_wf_check h (fun hB => hc fun hAB => hB hAB.2) fun hB h => ho hA hB h

/-- The checks that two operands are elements. -/
theorem outcome_of_canon8_checks {o : Host.Outcome State Fault Refusal}
    (h : (if !s.operandA.canon8 then .next (raiseError .invalidOperand s)
      else if !s.operandB.canon8 then .next (raiseError .invalidOperand s) else o) = .next t)
    (hc : ¬ (s.operandA.canon8 = true ∧ s.operandB.canon8 = true) → errorOf i s = some .invalidOperand)
    (ho : s.operandA.canon8 = true → s.operandB.canon8 = true → o = .next t → CommandOutcome i s t) :
    CommandOutcome i s t :=
  outcome_of_check h (fun hA => hc fun hAB => hA hAB.1) fun hA h =>
    outcome_of_check h (fun hB => hc fun hAB => hB hAB.2) fun hB h => ho hA hB h

theorem pdeg_outcome (h : exec .pdeg s = .next t) : CommandOutcome .pdeg s t :=
  outcome_of_wf_check h (fun hA => if_neg hA) fun hA h =>
    outcome_of_success h (if_pos hA) ⟨hA, empty_fits 16, by simp, by simp⟩

theorem ptrim_outcome (h : exec .ptrim s = .next t) : CommandOutcome .ptrim s t :=
  outcome_of_wf_check h (fun hA => if_neg hA) fun hA h =>
    outcome_of_success h (if_pos hA) ⟨trim_fits hA, empty_fits 16, by simp, fun _ => trim_trimmed _⟩

theorem padd_outcome (h : exec .padd s = .next t) : CommandOutcome .padd s t :=
  outcome_of_wf_checks h (fun hAB => if_neg hAB) fun hA hB h =>
    outcome_of_success h (if_pos ⟨hA, hB⟩) ⟨add_fits hA hB, empty_fits 16, by simp, by simp⟩

theorem pmul_outcome (h : exec .pmul s = .next t) : CommandOutcome .pmul s t := by
  refine outcome_of_wf_checks h (fun hAB => if_pos hAB) fun hA hB h => ?_
  have hform := not_not.mpr (And.intro hA hB)
  split at h
  next hlen => exact outcome_of_raise h ((if_neg hform).trans (if_pos hlen))
  next hlen =>
    refine outcome_of_success h ((if_neg hform).trans (if_neg hlen))
      ⟨⟨?_, multiply_pair hA.2 hB.2⟩, empty_fits 16, by simp, by simp⟩
    simp only [Config.PW] at hlen
    rw [multiply_len]
    split <;> omega

theorem pred_outcome (h : exec .pred s = .next t) : CommandOutcome .pred s t := by
  refine outcome_of_wf_checks h (fun hAB => if_pos hAB) fun hA hB h => ?_
  have hform := not_not.mpr (And.intro hA hB)
  by_cases hz : s.operandB.val = 0
  · rw [reduce_of_zero _ hz] at h
    exact outcome_of_raise h ((if_neg hform).trans (if_pos hz))
  · obtain ⟨q, r, hreduce, hlen⟩ := reduce_of_ne_zero s.operandA hz
    rw [hreduce] at h
    exact outcome_of_success h ((if_neg hform).trans (if_neg hz))
      ⟨quotient_fits hA hlen, remainder_fits hA hlen, by simp, fun _ => hlen.quotient_trimmed⟩

theorem fnew_outcome (h : exec .fnew s = .next t) : CommandOutcome .fnew s t := by
  by_cases hlen : 8 < s.operandA.len
  · have hconstruct : s.operandA.construct = .error .invalidLength := if_pos hlen
    simp only [exec, execFnew, hconstruct] at h
    exact outcome_of_raise h (if_pos hlen)
  · have hconstruct : s.operandA.construct = .ok s.operandA.trim := if_neg hlen
    simp only [exec, execFnew, hconstruct] at h
    have h16 : s.operandA.len ≤ 16 := by omega
    refine outcome_of_wf_check h (fun hA => (if_neg hlen).trans (if_pos fun hp => hA ⟨h16, hp⟩)) fun hA h => ?_
    have hval : s.operandA.val < 256 :=
      hA.2.trans_le (Nat.pow_le_pow_right (n := 2) (by decide) (Nat.not_lt.mp hlen))
    exact outcome_of_success h ((if_neg hlen).trans (if_neg (not_not.mpr hA.2)))
      (soundResults_of_element (trim_isElement hval))

theorem fadd_outcome (h : exec .fadd s = .next t) : CommandOutcome .fadd s t :=
  outcome_of_canon8_checks h (fun hAB => if_neg hAB) fun hA hB h =>
    outcome_of_success h (if_pos ⟨hA, hB⟩)
      (soundResults_of_element (fadd_isElement ((isElement_iff_canon8 _).mpr hA) ((isElement_iff_canon8 _).mpr hB)))

theorem fmul_outcome (h : exec .fmul s = .next t) : CommandOutcome .fmul s t := by
  refine outcome_of_canon8_checks h (fun hAB => if_neg hAB) fun hA hB h => ?_
  obtain ⟨p, hfmul, hp⟩ := fmul_isElement s.operandA s.operandB
  rw [hfmul] at h
  exact outcome_of_success h (if_pos ⟨hA, hB⟩) (soundResults_of_element hp)

theorem finv_outcome (h : exec .finv s = .next t) : CommandOutcome .finv s t := by
  refine outcome_of_check h (fun hA => if_pos hA) fun hA h => ?_
  have hform := not_not.mpr hA
  by_cases hz : s.operandA.val = 0
  · rw [if_pos ((isZero_iff _).mpr hz)] at h
    exact outcome_of_raise h ((if_neg hform).trans (if_pos hz))
  · obtain ⟨e, hrun, he⟩ := runOn_inRun ((isElement_iff_canon8 _).mpr hA) hz
    rw [if_neg ((isZero_iff _).not.mpr hz), hrun] at h
    cases h
    exact .inverse e ((if_neg hform).trans (if_neg hz)) he

/-- Once, what the command of each row leaves. -/
theorem exec_outcome (h : exec i s = .next t) : CommandOutcome i s t := by
  cases i with
  | pdeg => exact pdeg_outcome h
  | ptrim => exact ptrim_outcome h
  | padd => exact padd_outcome h
  | pmul => exact pmul_outcome h
  | pred => exact pred_outcome h
  | fnew => exact fnew_outcome h
  | fadd => exact fadd_outcome h
  | fmul => exact fmul_outcome h
  | finv => exact finv_outcome h
  | reservedOpc0 | reservedOpc6 | reservedOpc7 | reservedOpcC | reservedOpcD | reservedOpcE | reservedOpcF =>
    exact outcome_of_raise h rfl

end outcomes

/-- A result of at most 16 coefficients is what its POLY word denotes. -/
theorem toPoly_toReg_of_fits {p : BinPoly} (h : p.Fits 16) : PolyReg.toPoly p.toReg = p :=
  toPoly_toReg (h.1.trans_lt (by decide)) (h.2.trans_le (Nat.pow_le_pow_right (by decide) h.1))

/-- A POLY register reads as zeros above bit 20 (R74). -/
theorem polyReg_read_top (w : PolyReg) : (w.setWidth 32).extractLsb' 21 11 = 0 := by
  apply BitVec.eq_of_getLsbD_eq
  intro i hi
  simp

/-- The registers after a success of command `i`, as R74 asks. -/
theorem success_wellFormed {i : Instr} {r0 r1 : BinPoly} (hr : SoundResults i r0 r1) (n : Nat) (s : State) :
    let t := success r0 r1 n s
    (PolyReg.toPoly t.res0).Fits 16 ∧ (PolyReg.toPoly t.res1).Fits 16 ∧
    (hostRead 3 t).extractLsb' 21 11 = 0 ∧ (hostRead 4 t).extractLsb' 21 11 = 0 ∧
    (i ∈ [.fnew, .fadd, .fmul, .finv] → (PolyReg.toPoly t.res0).IsElement) ∧
    (i ∈ [.ptrim, .pred] → (PolyReg.toPoly t.res0).Trimmed) := by
  intro t
  have h0 : PolyReg.toPoly t.res0 = r0 := toPoly_toReg_of_fits hr.primary_fits
  have h1 : PolyReg.toPoly t.res1 = r1 := toPoly_toReg_of_fits hr.secondary_fits
  rw [h0, h1]
  exact ⟨hr.primary_fits, hr.secondary_fits, polyReg_read_top _, polyReg_read_top _, hr.element, hr.trimmed⟩

/-- Settles O38: an error is ruled out, and of the two successes one has sound results and the other an element. -/
theorem resultsAreWellFormed : Obligations.ResultsAreWellFormed := by
  intro i s t h herr
  cases exec_outcome h with
  | error c => simp at herr
  | plain r0 r1 _ hr => exact success_wellFormed hr 0 s
  | inverse e _ he => exact success_wellFormed (soundResults_of_element (inRun_result he).1) e.steps (s.setEngine e)

theorem code_ne (c : ErrCode) : c.code ≠ 0 ∧ c.code ≠ 7 := by
  cases c <;> decide

/-- A success shows ECODE 0, an error its own code. -/
theorem ecode_eq_code_iff {i : Instr} {s t : State} (h : exec i s = .next t) (c : ErrCode) :
    t.status.ecode = c.code ↔ errorOf i s = some c := by
  cases exec_outcome h with
  | error d hd =>
    rw [raiseError_ecode, hd, Option.some_inj]
    exact ⟨code_injective, congrArg ErrCode.code⟩
  | plain _ _ hnone | inverse _ hnone =>
    obtain ⟨hzero, -⟩ := code_ne c
    rw [success_ecode, hnone]
    exact ⟨fun h => absurd h.symm hzero, nofun⟩

theorem raiseError_errorMatch (c : ErrCode) (s : State) : (raiseError c s).status.errorMatch := by
  obtain ⟨hzero, hseven⟩ := code_ne c
  exact ⟨⟨nofun, fun h => absurd h hzero⟩, hseven⟩

theorem success_errorMatch (r0 r1 : BinPoly) (n : Nat) (s : State) : (success r0 r1 n s).status.errorMatch :=
  ⟨by simp, by simp⟩

/-- ERR and ECODE agree after every command, and 7 is the code of no error (R28, R29). -/
theorem exec_errorMatch {i : Instr} {s t : State} (h : exec i s = .next t) : t.status.errorMatch := by
  cases exec_outcome h with
  | error c => exact raiseError_errorMatch c s
  | plain r0 r1 => exact success_errorMatch r0 r1 0 s
  | inverse e => exact success_errorMatch e.result .empty e.steps (s.setEngine e)

section causes

variable (i : Instr) (s : State)

theorem errorOf_eq_illegalCommand_iff : errorOf i s = some .illegalCommand ↔ i.isReserved = true := by
  cases i <;> simp [errorOf, Instr.isReserved, ite_eq_iff]

theorem errorOf_eq_invalidOperand_iff : errorOf i s = some .invalidOperand ↔
    (i ∈ [.pdeg, .ptrim] ∧ ¬ s.operandA.Fits 16) ∨
    (i ∈ [.padd, .pmul, .pred] ∧ (¬ s.operandA.Fits 16 ∨ ¬ s.operandB.Fits 16)) ∨
    (i = .fnew ∧ s.operandA.len ≤ 8 ∧ ¬ s.operandA.Pair) ∨
    (i ∈ [.fadd, .fmul] ∧ (¬ s.operandA.IsElement ∨ ¬ s.operandB.IsElement)) ∨
    (i = .finv ∧ ¬ s.operandA.IsElement) := by
  simp only [isElement_iff_canon8, ← not_and_or]
  cases i <;> simp [errorOf, ite_eq_iff]

theorem errorOf_eq_invalidLength_iff : errorOf i s = some .invalidLength ↔ i = .fnew ∧ 8 < s.operandA.len := by
  cases i <;> simp [errorOf, ite_eq_iff]

theorem errorOf_eq_divisionByZero_iff : errorOf i s = some .divisionByZero ↔
    i = .pred ∧ s.operandA.Fits 16 ∧ s.operandB.Fits 16 ∧ s.operandB.val = 0 := by
  cases i <;> simp [errorOf, ite_eq_iff, and_assoc]

theorem eq_empty_iff_canon8 (p : BinPoly) : p = .empty ↔ p.canon8 = true ∧ p.val = 0 := by
  constructor
  · rintro rfl
    decide
  · rintro ⟨hcanon, hval⟩
    obtain ⟨v, -, rfl⟩ := (isElement_iff_canon8 p).mpr hcanon
    cases hval
    rfl

theorem errorOf_eq_noInverse_iff : errorOf i s = some .noInverse ↔ i = .finv ∧ s.operandA = .empty := by
  cases i <;> simp [errorOf, ite_eq_iff, eq_empty_iff_canon8]

theorem errorOf_eq_overflow_iff : errorOf i s = some .overflow ↔
    i = .pmul ∧ s.operandA.Fits 16 ∧ s.operandB.Fits 16 ∧ 0 < s.operandA.len ∧ 0 < s.operandB.len ∧
      16 < s.operandA.len + s.operandB.len - 1 := by
  cases i with
  | pmul =>
    simp only [errorOf, ite_eq_iff, not_not, Option.some.injEq, reduceCtorEq, and_false, false_or, or_false,
      and_true, true_and, and_assoc]
  | _ => simp [errorOf, ite_eq_iff]

end causes

/-- Settles O33: the code a command leaves names the error `errorOf` gives, and each error has its own cause there. -/
theorem eachErrorHasItsCause : Obligations.EachErrorHasItsCause := by
  intro i s t h
  obtain ⟨herr, hseven⟩ := exec_errorMatch h
  exact ⟨hseven, herr.symm,
    (ecode_eq_code_iff h .illegalCommand).trans (errorOf_eq_illegalCommand_iff i s),
    (ecode_eq_code_iff h .invalidOperand).trans (errorOf_eq_invalidOperand_iff i s),
    (ecode_eq_code_iff h .invalidLength).trans (errorOf_eq_invalidLength_iff i s),
    (ecode_eq_code_iff h .divisionByZero).trans (errorOf_eq_divisionByZero_iff i s),
    (ecode_eq_code_iff h .noInverse).trans (errorOf_eq_noInverse_iff i s),
    (ecode_eq_code_iff h .overflow).trans (errorOf_eq_overflow_iff i s)⟩

end Sys2Proof.Machine

end

/-! The invariant (R74, R108, R28, R29, R33, R157): the two tails keep it, and outside a completion and a reset a step
writes nothing it speaks of. -/
section

namespace Sys2Proof.Machine

/-- The invariant is about the results, STATUS without BUSY and LOST, and the engine. -/
theorem inv_of_eq {s t : State} (hs : s.Inv) (h0 : t.res0 = s.res0) (h1 : t.res1 = s.res1)
    (hst : t.status = { s.status with busy := t.status.busy, lost := t.status.lost }) (he : t.engine = s.engine) :
    t.Inv where
  res0_wf := h0 ▸ hs.res0_wf
  res1_wf := h1 ▸ hs.res1_wf
  flags := by
    rw [State.flagsMatch, h0, hst]
    exact hs.flags
  error := by
    rw [hst]
    exact hs.error
  iter := by
    rw [h0, h1, hst]
    exact hs.iter
  engine := he ▸ hs.engine

/-- The error tail leaves the results and what describes them. -/
theorem raiseError_inv {s : State} (hs : s.Inv) (c : ErrCode) : (raiseError c s).Inv where
  res0_wf := hs.res0_wf
  res1_wf := hs.res1_wf
  flags := hs.flags
  error := raiseError_errorMatch c s
  iter := hs.iter
  engine := hs.engine

/-- The success tail writes well-formed results with the flags of the first. -/
theorem success_inv {i : Instr} {r0 r1 : BinPoly} (hr : SoundResults i r0 r1) {n : Nat} {s : State}
    (hn : n = 0 ∨ (2 ≤ n ∧ n ≤ 9 ∧ r0.canon8 = true ∧ r0.isZero = false ∧ r1 = .empty)) (he : s.engine.Sized) :
    (success r0 r1 n s).Inv := by
  have h0 : PolyReg.toPoly r0.toReg = r0 := toPoly_toReg_of_fits hr.primary_fits
  have h1 : PolyReg.toPoly r1.toReg = r1 := toPoly_toReg_of_fits hr.secondary_fits
  refine
    { res0_wf := by rw [success_res0, h0, wf_iff_fits]; exact hr.primary_fits
      res1_wf := by rw [success_res1, h1, wf_iff_fits]; exact hr.secondary_fits
      flags := by simp [State.flagsMatch, h0]
      error := success_errorMatch r0 r1 n s
      iter := ?_
      engine := he }
  rw [success_iter, success_res0, success_res1, h0]
  obtain rfl | ⟨h2, h9, hcanon, hzero, rfl⟩ := hn
  · exact .inl rfl
  · have hcount : (BitVec.ofNat 4 n).toNat = n := Nat.mod_eq_of_lt (h9.trans_lt (by decide))
    rw [hcount]
    exact .inr ⟨h2, h9, hcanon, hzero, by decide⟩

theorem exec_inv {i : Instr} {s t : State} (hs : s.Inv) (h : exec i s = .next t) : t.Inv := by
  cases exec_outcome h with
  | error c => exact raiseError_inv hs c
  | plain r0 r1 _ hr => exact success_inv hr (.inl rfl) hs.engine
  | inverse e _ he =>
    obtain ⟨helement, hne⟩ := inRun_result he
    obtain ⟨h2, h9⟩ := inRun_steps he
    refine success_inv (i := .finv) (soundResults_of_element helement) (.inr ⟨h2, h9, ?_, ?_, rfl⟩) (inRun_sized he)
    · exact (isElement_iff_canon8 _).mp helement
    · exact (isZero_eq_false _).mpr hne

theorem completionStep_inv {s t : State} (hs : s.Inv) (h : completionStep s = .next t) : t.Inv := by
  obtain ⟨-, i, -, heq⟩ | ⟨-, -, heq⟩ | ⟨-, heq⟩ := completionStep_cases s
  · exact exec_inv hs (heq.symm.trans h)
  · cases heq.symm.trans h
    exact raiseError_inv hs .illegalCommand
  · cases heq.symm.trans h
    exact hs

/-- Settles O41: a completion keeps the invariant by its two tails, a reset restores it, and the other effects of a step
write no field it speaks of. -/
theorem everyStepKeepsTheStateSound : Obligations.EveryStepKeepsTheStateSound := by
  intro s t hs hstep
  cases step_effect hstep with
  | completion _ h => exact completionStep_inv (inv_of_eq hs rfl rfl rfl rfl : s.popTurn.Inv) h
  | reset => exact inv_of_eq resetStateIsSound rfl rfl rfl rfl
  | hostOnly | writeOpa | writeOpb | drop | accept => exact inv_of_eq hs rfl rfl rfl rfl

end Sys2Proof.Machine

end

/-! The carry-less product bit by bit (R104): the bits of a product are the convolution of the bits of its factors. -/
section

namespace Sys2Proof

/-- What a pass of the loop of R104 adds to bit `k`. -/
theorem passTerm_testBit (x y n k : Nat) :
    (if x.testBit n then y <<< n else 0).testBit k = (x.testBit n && (decide (n ≤ k) && y.testBit (k - n))) := by
  cases x.testBit n
  · simp
  · simp [Nat.testBit_shiftLeft]

/-- Up to the position of bit `k`, each bit of `x` gives bit `k` of the product one term. -/
theorem clmulBelow_testBit {n k : Nat} (x y : Nat) (h : n ≤ k + 1) :
    (clmulBelow x y n).testBit k =
      (List.range n).foldl (fun acc i => acc ^^ (x.testBit i && y.testBit (k - i))) false := by
  induction n with
  | zero => simp
  | succ n ih =>
    have hnk : n ≤ k := Nat.le_of_lt_succ h
    rw [clmulBelow_succ, Nat.testBit_xor, ih (by omega), passTerm_testBit, List.range_succ, List.foldl_append]
    simp [hnk]

/-- Bits of `x` above position `k` leave bit `k` of the product alone. -/
theorem clmulBelow_testBit_of_lt {n k : Nat} (x y : Nat) (h : k < n) :
    (clmulBelow x y n).testBit k = (clmulBelow x y (k + 1)).testBit k := by
  induction n, h using Nat.le_induction with
  | base => rfl
  | succ n hkn ih =>
    have hnk : ¬ n ≤ k := Nat.not_le.mpr hkn
    rw [clmulBelow_succ, Nat.testBit_xor, ih, passTerm_testBit]
    simp [hnk]

theorem clmul_eq_clmulBelow {x n : Nat} (h : x < 2 ^ n) (y : Nat) : clmul x y = clmulBelow x y n := by
  rw [clmulBelow_eq_clmul_mod, Nat.mod_eq_of_lt h, clmul_comm]

theorem clmul_testBit (x y k : Nat) : (clmul x y).testBit k = productBit x y k := by
  have hx : x < 2 ^ (hibit x + 1 + (k + 1)) :=
    (lt_two_pow_hibit_succ x).trans_le (Nat.pow_le_pow_right (by decide) (Nat.le_add_right _ _))
  rw [clmul_eq_clmulBelow hx, clmulBelow_testBit_of_lt x y (by omega)]
  exact clmulBelow_testBit x y le_rfl

/-- Settles O46: the loop of R104 adds the terms of the convolution one by one, and its passes above `k` add none. -/
theorem carrylessProductIsConvolution : Obligations.CarrylessProductIsConvolution := clmul_testBit

end Sys2Proof

end

/-! The laws of add and multiply (R107, laws 1 to 8). -/
section

namespace Sys2Proof

theorem BinPoly.add_comm (a b : BinPoly) : a.add b = b.add a :=
  congrArg₂ BinPoly.mk (Nat.max_comm _ _) (Nat.xor_comm _ _)

theorem BinPoly.add_assoc (a b c : BinPoly) : (a.add b).add c = a.add (b.add c) :=
  congrArg₂ BinPoly.mk (Nat.max_assoc _ _ _) (Nat.xor_assoc _ _ _)

theorem BinPoly.add_self (a : BinPoly) : a.add a = ⟨a.len, 0⟩ :=
  congrArg₂ BinPoly.mk (Nat.max_self _) (Nat.xor_self _)

theorem BinPoly.add_empty (a : BinPoly) : a.add .empty = a :=
  congrArg₂ BinPoly.mk (Nat.max_zero _) (Nat.xor_zero _)

theorem BinPoly.multiply_comm (a b : BinPoly) : a.multiply b = b.multiply a := by
  by_cases h : a.len = 0 ∨ b.len = 0
  · rw [multiply_of_empty h, multiply_of_empty h.symm]
  · rw [multiply_of_nonempty h, multiply_of_nonempty (mt Or.symm h), clmul_comm, Nat.add_comm]

theorem BinPoly.multiply_empty (a : BinPoly) : a.multiply .empty = .empty := multiply_of_empty (.inr rfl)

theorem clmul_one (x : Nat) : clmul x 1 = x := clmul_one_shiftLeft x 0

/-- Law 7 of R107. The empty sequence is no exception on pairs, where its value is 0. -/
theorem BinPoly.multiply_one {a : BinPoly} (ha : a.Pair) : a.multiply .one = a := by
  by_cases hlen : a.len = 0
  · rw [multiply_of_empty (.inl hlen)]
    exact congrArg₂ BinPoly.mk hlen.symm (val_eq_zero_of_pair ha hlen).symm
  · rw [multiply_of_nonempty (not_or.mpr ⟨hlen, by decide⟩)]
    exact congrArg₂ BinPoly.mk (Nat.add_sub_cancel _ _) (clmul_one _)

/-- Settles O44: the laws of addition are those of `max` and XOR, and those of multiplication rest on `clmul`'s. -/
theorem additionAndMultiplicationLaws : Obligations.AdditionAndMultiplicationLaws :=
  ⟨fun a b c => ⟨a.add_comm b, a.add_assoc b c, a.add_self, a.add_empty, a.multiply_comm b, a.multiply_empty⟩,
    fun _ ha => BinPoly.multiply_one ha⟩

theorem degree_eq (p : BinPoly) : p.degree = if p.val = 0 then none else some (hibit p.val) := by
  simp only [BinPoly.degree, isZero_iff]

theorem degree_eq_some_iff (p : BinPoly) (d : Nat) : p.degree = some d ↔ p.val ≠ 0 ∧ hibit p.val = d := by
  simp [degree_eq]

/-- Settles O45: on pairs the product's value is the values' product, whose top bit is where the factors' top bits meet. -/
theorem degreesAddUnderMultiplication : Obligations.DegreesAddUnderMultiplication := by
  refine fun a b ha hb => ⟨multiply_pair ha hb, fun d e hd he => ?_⟩
  rw [degree_eq_some_iff] at *
  obtain ⟨hane, rfl⟩ := hd
  obtain ⟨hbne, rfl⟩ := he
  rw [multiply_val ha hb]
  exact ⟨clmul_ne_zero hane hbne, hibit_clmul hane hbne⟩

end Sys2Proof

end

/-! Division (R105, R106, and law 9 of R107): the loop keeps `q * m + r`, and a remainder shorter than the divisor leaves
no choice of `q` and `r`. -/
section

namespace Sys2Proof

theorem clmul_xor_left (a b y : Nat) : clmul (a ^^^ b) y = clmul a y ^^^ clmul b y := by
  rw [clmul_comm, clmul_xor_right, clmul_comm y a, clmul_comm y b]

theorem one_shiftLeft_clmul (k y : Nat) : clmul (1 <<< k) y = y <<< k := by
  rw [clmul_comm, clmul_one_shiftLeft]

/-- Setting a bit that is clear is adding it. -/
theorem or_one_shiftLeft_eq_xor {q k : Nat} (h : q.testBit k = false) : q ||| 1 <<< k = q ^^^ 1 <<< k := by
  apply Nat.eq_of_testBit_eq
  intro i
  rw [Nat.testBit_or, Nat.testBit_xor, Nat.one_shiftLeft, Nat.testBit_two_pow]
  by_cases hi : k = i
  · rw [← hi, h]
    simp
  · simp [hi]

/-- The division loop keeps `q * m + r`, as long as the passes to come find their quotient bits clear. -/
theorem divLoop_identity {m : Nat} (hm : m ≠ 0) {fuel q r q' r' : Nat}
    (hclear : ∀ i, i + trimmedLen m ≤ trimmedLen r → q.testBit i = false)
    (h : divLoop (hibit m) m fuel (q, r) = (q', r')) : clmul q' m ^^^ r' = clmul q m ^^^ r := by
  induction fuel generalizing q r with
  | zero =>
    cases h
    rfl
  | succ fuel ih =>
    by_cases hpass : r ≠ 0 ∧ hibit m ≤ hibit r
    · rw [divLoop_pass _ _ _ _ _ hpass] at h
      obtain ⟨hr, hdeg⟩ := hpass
      have hmlen := trimmedLen_of_ne_zero hm
      have hrlen := trimmedLen_of_ne_zero hr
      have hlt := trimmedLen_pass_lt hm hr hdeg
      have hbit : q.testBit (hibit r - hibit m) = false := hclear _ (by omega)
      have hclear' : ∀ i, i + trimmedLen m ≤ trimmedLen (r ^^^ m <<< (hibit r - hibit m)) →
          (q ||| 1 <<< (hibit r - hibit m)).testBit i = false := by
        intro i hi
        rw [Nat.testBit_or, hclear i (by omega), Nat.one_shiftLeft, Nat.testBit_two_pow_of_ne (by omega), Bool.or_false]
      rw [ih hclear' h, or_one_shiftLeft_eq_xor hbit, clmul_xor_left, one_shiftLeft_clmul,
        Nat.xor_comm r, Nat.xor_assoc, Nat.xor_xor_cancel_left]
    · rw [divLoop_end _ _ _ _ _ hpass] at h
      cases h
      rfl

/-- R105's bound on a remainder, in lengths. -/
theorem trimmedLen_lt_iff {m : Nat} (hm : m ≠ 0) (r : Nat) :
    trimmedLen r < trimmedLen m ↔ r = 0 ∨ hibit r < hibit m := by
  by_cases hr : r = 0
  · simp [hr, hm, trimmedLen]
  · simp [hr, trimmedLen_of_ne_zero hm, trimmedLen_of_ne_zero hr]

theorem reduce_identity {p m q r : BinPoly} (h : p.reduce m = .ok (q, r)) : p.val = clmul q.val m.val ^^^ r.val := by
  obtain ⟨-, herror⟩ | ⟨hm, q', r', hloop, hok⟩ := reduce_cases p m
  · cases herror.symm.trans h
  · cases hok.symm.trans h
    have hkept := divLoop_identity hm (by simp) hloop
    rw [clmul_eq_zero (.inl rfl), Nat.zero_xor] at hkept
    rw [trim_val, hkept]

theorem reduce_dividesTo (p : BinPoly) {m : BinPoly} (hm : m.val ≠ 0) :
    ∃ q r, p.reduce m = .ok (q, r) ∧ DivisionLengths p m q r ∧ p.DividesTo m q r := by
  obtain ⟨q, r, hreduce, hlen⟩ := reduce_of_ne_zero p hm
  exact ⟨q, r, hreduce, hlen, reduce_identity hreduce, (trimmedLen_lt_iff hm _).mp hlen.remainder_lt,
    hlen.quotient_trimmed, hlen.remainder_len⟩

/-- Law 9 of R107: the difference of two quotients, times the divisor, is the difference of two remainders, and that is
too short for a nonzero multiple of the divisor. -/
theorem division_unique {m q r q' r' : Nat} (hm : m ≠ 0) (h : clmul q m ^^^ r = clmul q' m ^^^ r')
    (hr : trimmedLen r < trimmedLen m) (hr' : trimmedLen r' < trimmedLen m) : q' = q ∧ r' = r := by
  have hdiff : clmul (q' ^^^ q) m = r' ^^^ r := by
    calc clmul (q' ^^^ q) m
      _ = clmul q' m ^^^ clmul q m := clmul_xor_left _ _ _
      _ = clmul q' m ^^^ (clmul q m ^^^ r ^^^ r) := by rw [Nat.xor_xor_cancel_right]
      _ = clmul q' m ^^^ (clmul q' m ^^^ r' ^^^ r) := by rw [h]
      _ = r' ^^^ r := by rw [Nat.xor_assoc, Nat.xor_xor_cancel_left]
  have hq : q' ^^^ q = 0 := by
    by_contra hne
    have hlen := trimmedLen_clmul hne hm
    have hpos := (trimmedLen_pos_iff _).mpr hne
    have hshort := trimmedLen_xor_le r' r
    rw [hdiff] at hlen
    omega
  rw [hq, clmul_eq_zero (.inl rfl)] at hdiff
  exact ⟨Nat.xor_eq_zero_iff.mp hq, Nat.xor_eq_zero_iff.mp hdiff.symm⟩

/-- Settles O47: `reduce_dividesTo` gives the quotient and the remainder, `division_unique` that there are no others. -/
theorem divisionIdentityIsUnique : Obligations.DivisionIdentityIsUnique := by
  intro p m hm
  obtain ⟨q, r, hreduce, hlen, hdiv⟩ := reduce_dividesTo p hm
  refine ⟨q, r, hreduce, hdiv, fun q' r' hp hbound => ?_⟩
  exact division_unique hm ((reduce_identity hreduce).symm.trans hp) hlen.remainder_lt
    ((trimmedLen_lt_iff hm r').mpr hbound)

end Sys2Proof

end

/-! The primitives on sequences (R101 to R103): leading zeros are what the length holds beyond the value's own bits. -/
section

namespace Sys2Proof

theorem ofSeq_val_replicate_append (zeros : Nat) (s : List Bool) :
    (BinPoly.ofSeq (List.replicate zeros false ++ s)).val = (BinPoly.ofSeq s).val := by
  induction zeros with
  | zero => rfl
  | succ zeros ih => simpa [List.replicate_succ, ofSeq_cons] using ih

theorem ofSeq_true_cons (s : List Bool) :
    (BinPoly.ofSeq (true :: s)).val ≠ 0 ∧ hibit (BinPoly.ofSeq (true :: s)).val = s.length := by
  have hval : (BinPoly.ofSeq (true :: s)).val = 2 ^ s.length + (BinPoly.ofSeq s).val := by simp [ofSeq_cons]
  have hlt := ofSeq_val_lt s
  have hpos := Nat.two_pow_pos s.length
  have hne : (BinPoly.ofSeq (true :: s)).val ≠ 0 := by omega
  exact ⟨hne, (hibit_eq_iff hne).mpr ⟨by omega, by rw [Nat.pow_succ]; omega⟩⟩

/-- Settles O48: the leading zeros add nothing to the value, and below the first 1 the rest does not reach its weight. -/
theorem degreeOnSequences : Obligations.DegreeOnSequences := by
  refine ⟨fun zeros rest => ?_, fun zeros => ?_, degree_eq⟩
  · rw [degree_eq_some_iff, ofSeq_val_replicate_append]
    exact ofSeq_true_cons rest
  · have hzero : (BinPoly.ofSeq (List.replicate zeros false)).val = 0 := by
      simpa using ofSeq_val_replicate_append zeros []
    rw [degree_eq, if_pos hzero]

/-- Dropping the leading zeros of a sequence leaves the one at the value's trimmed length. -/
theorem dropWhile_toSeq {n v : Nat} (h : v < 2 ^ n) :
    (BinPoly.mk n v).toSeq.dropWhile (fun b => !b) = (BinPoly.mk (trimmedLen v) v).toSeq := by
  induction n with
  | zero =>
    obtain rfl : v = 0 := by simpa using h
    rfl
  | succ n ih =>
    rw [toSeq_len_succ]
    cases hbit : v.testBit n with
    | true =>
      have hle : trimmedLen v ≤ n + 1 := (trimmedLen_le_iff v _).mpr h
      have hge : ¬ trimmedLen v ≤ n := by
        rw [trimmedLen_le_iff, Nat.not_lt]
        exact Nat.ge_two_pow_of_testBit hbit
      have hlen : trimmedLen v = n + 1 := by omega
      rw [hlen, toSeq_len_succ, hbit]
      rfl
    | false =>
      refine ih (Nat.lt_pow_two_of_testBit _ fun i hi => ?_)
      obtain rfl | hlt := hi.eq_or_lt
      · exact hbit
      · exact Nat.testBit_lt_two_pow (h.trans_le (Nat.pow_le_pow_right (by decide) hlt))

/-- Settles O49: `trim` is the pair at the trimmed length, where `dropWhile_toSeq` ends. -/
theorem trimOnSequences : Obligations.TrimOnSequences := by
  intro p hp
  refine ⟨?_, trim_val p, ?_, trim_trimmed p⟩
  · rw [dropWhile_toSeq hp, trim_eq]
  · rw [trim_len]
    exact (pair_iff_trimmedLen_le p).mp hp

/-- A longer sequence of the same value begins with zeros (R103). -/
theorem toSeq_zero_extend {n v : Nat} (h : v < 2 ^ n) (k : Nat) :
    (BinPoly.mk (k + n) v).toSeq = List.replicate k false ++ (BinPoly.mk n v).toSeq := by
  induction k with
  | zero => simp
  | succ k ih =>
    have hbit : v.testBit (k + n) = false :=
      Nat.testBit_lt_two_pow (h.trans_le (Nat.pow_le_pow_right (by decide) (Nat.le_add_left n k)))
    rw [Nat.succ_add, toSeq_len_succ, hbit, ih]
    rfl

theorem toSeq_extend_to {p : BinPoly} (hp : p.Pair) {n : Nat} (hn : p.len ≤ n) :
    List.replicate (n - p.len) false ++ p.toSeq = (BinPoly.mk n p.val).toSeq := by
  rw [← toSeq_zero_extend hp, Nat.sub_add_cancel hn]

theorem toSeq_xor (n v w : Nat) :
    (BinPoly.mk n (v ^^^ w)).toSeq =
      List.zipWith (fun x y => x ^^ y) (BinPoly.mk n v).toSeq (BinPoly.mk n w).toSeq := by
  induction n with
  | zero => rfl
  | succ n ih => rw [toSeq_len_succ, toSeq_len_succ, toSeq_len_succ, List.zipWith_cons_cons, ih, Nat.testBit_xor]

/-- Settles O50: at the longer length both sequences are zero-extended, and XOR of values is XOR of coefficients. -/
theorem addOnSequences : Obligations.AddOnSequences := by
  intro a b ha hb
  rw [toSeq_extend_to ha (le_max_left _ _), toSeq_extend_to hb (le_max_right _ _), ← toSeq_xor]
  rfl

end Sys2Proof

end

/-! The flags (R30 to R32, R108): what Z, DEGV and DEG say of the polynomial they are computed from. -/
section

namespace Sys2Proof

theorem flagZ_eq (p : BinPoly) : p.flagZ = decide (p.val = 0) := rfl

theorem flagDegv_eq (p : BinPoly) : p.flagDegv = decide (p.val ≠ 0) := (decide_not (p := p.val = 0)).symm

theorem flagDeg_eq (p : BinPoly) : p.flagDeg = BitVec.ofNat 5 (if p.val = 0 then 0 else hibit p.val) := by
  rw [BinPoly.flagDeg, degree_eq]
  split <;> rfl

/-- The field DEG has room for the degree of a polynomial that fits a POLY register. -/
theorem flagDeg_toNat {p : BinPoly} (hp : p.Fits 16) (hne : p.val ≠ 0) : p.flagDeg.toNat = hibit p.val := by
  obtain ⟨hlen, hpair⟩ := hp
  have hdeg := (pair_iff_trimmedLen_le p).mp hpair
  rw [trimmedLen_of_ne_zero hne] at hdeg
  rw [flagDeg_eq, if_neg hne, BitVec.toNat_ofNat]
  exact Nat.mod_eq_of_lt (by omega)

namespace Machine

/-- The flags a success writes describe its first result as RES0 holds it. -/
theorem success_flags {r0 : BinPoly} (h0 : r0.Fits 16) (r1 : BinPoly) (n : Nat) (s : State) :
    let t := success r0 r1 n s
    (t.status.z = true ↔ (PolyReg.toPoly t.res0).val = 0) ∧ t.status.degv = !t.status.z ∧
    (t.status.degv = false → t.status.deg = 0) ∧
    (t.status.degv = true → (PolyReg.toPoly t.res0).val.testBit t.status.deg.toNat = true ∧
      (PolyReg.toPoly t.res0).val < 2 ^ (t.status.deg.toNat + 1)) := by
  intro t
  have hres : PolyReg.toPoly t.res0 = r0 := toPoly_toReg_of_fits h0
  rw [hres, success_z, success_degv, success_deg, flagZ_eq, flagDegv_eq]
  by_cases hzero : r0.val = 0
  · simp [hzero, flagDeg_eq]
  · have htop : r0.val.testBit (hibit r0.val) = true := Nat.testBit_log2 hzero
    rw [flagDeg_toNat h0 hzero]
    simp [hzero, htop, lt_two_pow_hibit_succ]

/-- Settles O39: an error is ruled out, and both successes hold a result that fits RES0. -/
theorem flagsDescribeRes0 : Obligations.FlagsDescribeRes0 := by
  intro i s t h herr
  cases exec_outcome h with
  | error c => simp at herr
  | plain r0 r1 _ hr => exact success_flags hr.primary_fits r1 0 s
  | inverse e _ he => exact success_flags (isElement_fits (inRun_result he).1) .empty e.steps (s.setEngine e)

end Machine

end Sys2Proof

end

/-! The commands of the primitives (R110 to R114): the result of each success; the errors are those of `errorOf`. -/
section

namespace Sys2Proof.Machine

theorem exec_goesOn (i : Instr) (s : State) : GoesOn (exec i s) := by
  obtain ⟨c, h⟩ | ⟨r0, r1, n, h⟩ | ⟨-, e, h⟩ := exec_cases i s
  · exact ⟨_, h⟩
  · exact ⟨_, h⟩
  · exact ⟨_, h⟩

/-- A command completes in the error `errorOf` gives. -/
theorem exec_of_error {i : Instr} {s : State} {c : ErrCode} (hc : errorOf i s = some c) :
    exec i s = .next (s.failedWith c.code) := by
  obtain ⟨t, ht⟩ := exec_goesOn i s
  rw [ht]
  cases exec_outcome ht with
  | error d hd =>
    cases hc.symm.trans hd
    rfl
  | plain _ _ hnone | inverse _ hnone => cases hc.symm.trans hnone

/-- The flags `success` writes are those R30 to R32 give for the first result. -/
theorem success_eq_completedFor (r0 r1 : BinPoly) (n : Nat) (s : State) :
    success r0 r1 n s = s.completedFor r0 r1 n := by
  rw [success_eq, flagZ_eq, flagDegv_eq, flagDeg_eq]
  rfl

section successes

variable {s : State}

theorem exec_pdeg_of_fits (hA : s.operandA.Fits 16) :
    exec .pdeg s = .next (s.completedFor s.operandA .empty 0) := by
  have hwf := (wf_iff_fits _).mpr hA
  simp [exec, execPdeg, hwf, success_eq_completedFor]

theorem exec_ptrim_of_fits (hA : s.operandA.Fits 16) :
    exec .ptrim s = .next (s.completedFor s.operandA.trim .empty 0) := by
  have hwf := (wf_iff_fits _).mpr hA
  simp [exec, execPtrim, hwf, success_eq_completedFor]

theorem exec_padd_of_fits (hA : s.operandA.Fits 16) (hB : s.operandB.Fits 16) :
    exec .padd s = .next (s.completedFor (s.operandA.add s.operandB) .empty 0) := by
  have hwfA := (wf_iff_fits _).mpr hA
  have hwfB := (wf_iff_fits _).mpr hB
  simp [exec, execPadd, hwfA, hwfB, success_eq_completedFor]

theorem exec_pmul_of_fits (hA : s.operandA.Fits 16) (hB : s.operandB.Fits 16)
    (hlen : s.operandA.len = 0 ∨ s.operandB.len = 0 ∨ s.operandA.len + s.operandB.len - 1 ≤ 16) :
    exec .pmul s = .next (s.completedFor (s.operandA.multiply s.operandB) .empty 0) := by
  have hwfA := (wf_iff_fits _).mpr hA
  have hwfB := (wf_iff_fits _).mpr hB
  have hroom : ¬ (0 < s.operandA.len ∧ 0 < s.operandB.len ∧ Config.PW < s.operandA.len + s.operandB.len - 1) := by
    simp only [Config.PW]
    omega
  simp [exec, execPmul, hwfA, hwfB, hroom, success_eq_completedFor]

theorem exec_pred_of_reduce (hA : s.operandA.Fits 16) (hB : s.operandB.Fits 16) {q r : BinPoly}
    (h : s.operandA.reduce s.operandB = .ok (q, r)) : exec .pred s = .next (s.completedFor q r 0) := by
  have hwfA := (wf_iff_fits _).mpr hA
  have hwfB := (wf_iff_fits _).mpr hB
  simp [exec, execPred, hwfA, hwfB, h, success_eq_completedFor]

end successes

/-- Settles O21: the register that held the operand is the POLY word of what was read from it. -/
theorem pdegCopiesAndMeasures : Obligations.PdegCopiesAndMeasures := by
  refine ⟨rfl, fun s => ⟨fun hA => ?_, fun hA => exec_of_error (c := .invalidOperand) (if_neg hA)⟩⟩
  have hreg : s.operandA.toReg = s.latch.la := toReg_toPoly s.latch.la
  rw [exec_pdeg_of_fits hA, State.completedFor, hreg]
  rfl

/-- Settles O22: the trimmed length is 0 for the zero polynomial, and else one more than the position of the top bit. -/
theorem ptrimLeavesNoLeadingZero : Obligations.PtrimLeavesNoLeadingZero := by
  refine ⟨rfl, fun s => ⟨fun hA => ?_, fun hA => exec_of_error (c := .invalidOperand) (if_neg hA)⟩⟩
  refine ⟨_, exec_ptrim_of_fits hA, trim_val _, trim_fits hA, ?_⟩
  rw [trim_len, trim_val]
  refine ⟨(trimmedLen_eq_zero_iff _).mpr, fun hne => ?_⟩
  rw [trimmedLen_of_ne_zero hne]
  exact Nat.testBit_log2 hne

/-- Settles O23: `add` is XOR of the values at the longer length. -/
theorem paddXorsCoefficients : Obligations.PaddXorsCoefficients := by
  refine ⟨rfl, fun s => ⟨fun hA hB => ?_, fun h => exec_of_error (c := .invalidOperand) (if_neg (not_and_or.mpr h))⟩⟩
  exact ⟨_, exec_padd_of_fits hA hB, add_fits hA hB, rfl, fun _ => Nat.testBit_xor ..⟩

/-- Settles O24: where the product's length is at most 16 the product is the convolution of the operands, and where it is
not, `errorOf` gives Overflow. -/
theorem pmulMultipliesOrOverflows : Obligations.PmulMultipliesOrOverflows := by
  refine ⟨rfl, fun s => ⟨fun hA hB hlen => ?_, fun hA hB ha hb hlong => ?_, fun h => ?_⟩⟩
  · refine ⟨_, exec_pmul_of_fits hA hB hlen, ⟨?_, multiply_pair hA.2 hB.2⟩, multiply_len _ _, fun k => ?_⟩
    · rw [multiply_len]
      split <;> omega
    · rw [multiply_val hA.2 hB.2, clmul_testBit]
  · exact exec_of_error ((errorOf_eq_overflow_iff _ s).mpr ⟨rfl, hA, hB, ha, hb, hlong⟩)
  · exact exec_of_error (c := .invalidOperand) (if_pos (not_and_or.mpr h))

/-- Settles O25: `reduce_dividesTo` gives the results and their lengths; `errorOf` gives the two errors. -/
theorem predDividesOrReportsZero : Obligations.PredDividesOrReportsZero := by
  refine ⟨rfl, fun s => ⟨fun hA hB hne => ?_, fun hA hB hzero => ?_, fun h => ?_⟩⟩
  · obtain ⟨q, r, hreduce, hlen, hdiv⟩ := reduce_dividesTo s.operandA hne
    exact ⟨q, r, exec_pred_of_reduce hA hB hreduce, quotient_fits hA hlen, remainder_fits hA hlen, hdiv⟩
  · exact exec_of_error ((errorOf_eq_divisionByZero_iff _ s).mpr ⟨rfl, hA, hB, hzero⟩)
  · exact exec_of_error (c := .invalidOperand) (if_pos (not_and_or.mpr h))

end Sys2Proof.Machine

end

/-! The carry-less product is associative (R104): it is linear in each factor, so powers of x decide. -/
section

namespace Sys2Proof

/-- A function on values that is linear over XOR. -/
def XorLinear (f : Nat → Nat) : Prop := ∀ a b, f (a ^^^ b) = f a ^^^ f b

theorem xorLinear_zero {f : Nat → Nat} (hf : XorLinear f) : f 0 = 0 := by
  have h := hf 0 0
  rwa [Nat.xor_self, Nat.xor_self] at h

/-- Linear functions that agree on the powers of x agree: a value is the XOR of the powers of x at its bits. -/
theorem xorLinear_ext {f g : Nat → Nat} (hf : XorLinear f) (hg : XorLinear g) (h : ∀ k, f (1 <<< k) = g (1 <<< k))
    (x : Nat) : f x = g x := by
  have hlow : ∀ n, f (x % 2 ^ n) = g (x % 2 ^ n) := by
    intro n
    induction n with
    | zero => rw [Nat.pow_zero, Nat.mod_one, xorLinear_zero hf, xorLinear_zero hg]
    | succ n ih =>
      rw [mod_two_pow_succ_eq_xor, hf, hg, ih]
      split
      · rw [h]
      · rw [xorLinear_zero hf, xorLinear_zero hg]
  have hx := hlow (hibit x + 1)
  rwa [Nat.mod_eq_of_lt (lt_two_pow_hibit_succ x)] at hx

theorem clmul_xorLinear (x : Nat) : XorLinear (clmul x) := clmul_xor_right x

theorem shiftLeft_xorLinear (k : Nat) : XorLinear (· <<< k) := fun _ _ => Nat.shiftLeft_xor_distrib

theorem xorLinear_comp {f g : Nat → Nat} (hf : XorLinear f) (hg : XorLinear g) : XorLinear (f ∘ g) := fun a b => by
  rw [Function.comp_apply, hg, hf, Function.comp_apply, Function.comp_apply]

/-- A factor x^k comes out of a product. -/
theorem clmul_shiftLeft (x y k : Nat) : clmul x (y <<< k) = clmul x y <<< k := by
  refine xorLinear_ext (xorLinear_comp (clmul_xorLinear x) (shiftLeft_xorLinear k))
    (xorLinear_comp (shiftLeft_xorLinear k) (clmul_xorLinear x)) (fun j => ?_) y
  calc clmul x (1 <<< j <<< k)
    _ = x <<< (j + k) := by rw [← Nat.shiftLeft_add, clmul_one_shiftLeft]
    _ = clmul x (1 <<< j) <<< k := by rw [clmul_one_shiftLeft, Nat.shiftLeft_add]

theorem clmul_assoc (x y z : Nat) : clmul (clmul x y) z = clmul x (clmul y z) := by
  refine xorLinear_ext (clmul_xorLinear (clmul x y)) (xorLinear_comp (clmul_xorLinear x) (clmul_xorLinear y))
    (fun k => ?_) z
  calc clmul (clmul x y) (1 <<< k)
    _ = clmul x (y <<< k) := by rw [clmul_one_shiftLeft, clmul_shiftLeft]
    _ = clmul x (clmul y (1 <<< k)) := by rw [clmul_one_shiftLeft]

end Sys2Proof

end

/-! Congruence modulo MOD (R133): it respects sums and products, and two values below 256 are congruent only if equal. -/
section

namespace Sys2Proof

section congruence

variable {x y z w : Nat}

theorem congMod_refl (x : Nat) : congMod x x := ⟨0, by rw [Nat.xor_self, clmul_eq_zero (.inl rfl)]⟩

theorem congMod_symm (h : congMod x y) : congMod y x := by
  rwa [congMod, Nat.xor_comm]

theorem congMod_xor (h : congMod x y) (h' : congMod z w) : congMod (x ^^^ z) (y ^^^ w) := by
  obtain ⟨q, hq⟩ := h
  obtain ⟨q', hq'⟩ := h'
  refine ⟨q ^^^ q', ?_⟩
  calc x ^^^ z ^^^ (y ^^^ w)
    _ = x ^^^ y ^^^ (z ^^^ w) := by ac_rfl
    _ = clmul (q ^^^ q') Config.MOD.val := by rw [hq, hq', clmul_xor_left]

theorem congMod_trans (h : congMod x y) (h' : congMod y z) : congMod x z := by
  have hsum : congMod (x ^^^ y) (y ^^^ z) := congMod_xor h h'
  rwa [congMod, Nat.xor_assoc, Nat.xor_xor_cancel_left] at hsum

theorem congMod_clmul_left (z : Nat) (h : congMod x y) : congMod (clmul z x) (clmul z y) := by
  obtain ⟨q, hq⟩ := h
  exact ⟨clmul z q, by rw [← clmul_xor_right, hq, clmul_assoc]⟩

theorem congMod_clmul_right (z : Nat) (h : congMod x y) : congMod (clmul x z) (clmul y z) := by
  rw [clmul_comm x, clmul_comm y]
  exact congMod_clmul_left z h

/-- Both are their own remainders modulo MOD. -/
theorem eq_of_congMod (hx : x < 256) (hy : y < 256) (h : congMod x y) : x = y := by
  obtain ⟨q, hq⟩ := h
  have hdiv : clmul q Config.MOD.val ^^^ y = clmul 0 Config.MOD.val ^^^ x := by
    rw [← hq, Nat.xor_xor_cancel_right, clmul_eq_zero (.inl rfl), Nat.zero_xor]
  have short : ∀ {v : Nat}, v < 256 → trimmedLen v < trimmedLen Config.MOD.val := fun hv =>
    Nat.lt_succ_of_le ((trimmedLen_le_iff _ 8).mpr hv)
  exact (division_unique (by decide) hdiv (short hy) (short hx)).2

end congruence

end Sys2Proof

end

/-! The field operations (R132 to R134): a sum is the element of the XOR, a product the element congruent to the carry-less
product. -/
section

namespace Sys2Proof

theorem fadd_eq (a b : BinPoly) : a.fadd b = fieldElement (a.val ^^^ b.val) := trim_eq _

@[simp] theorem fadd_val (a b : BinPoly) : (a.fadd b).val = a.val ^^^ b.val := trim_val _

theorem eq_fieldElement_val {p : BinPoly} (h : p.IsElement) : p = fieldElement p.val := by
  obtain ⟨v, -, rfl⟩ := h
  rfl

theorem isElement_ext {p q : BinPoly} (hp : p.IsElement) (hq : q.IsElement) (h : p.val = q.val) : p = q := by
  rw [eq_fieldElement_val hp, eq_fieldElement_val hq, h]

theorem isElement_empty : BinPoly.empty.IsElement := ⟨0, by decide, rfl⟩

theorem isElement_pair {p : BinPoly} (h : p.IsElement) : p.Pair := (isElement_fits h).2

theorem fmul_comm (a b : BinPoly) : a.fmul b = b.fmul a := by
  rw [BinPoly.fmul, BinPoly.fmul, BinPoly.multiply_comm]

section products

variable {a b p : BinPoly}

/-- A field product is an element congruent to the carry-less product. -/
theorem fmul_congMod (ha : a.Pair) (hb : b.Pair) :
    ∃ p, a.fmul b = .ok p ∧ p.IsElement ∧ congMod p.val (clmul a.val b.val) := by
  obtain ⟨p, hp, helem⟩ := fmul_isElement a b
  obtain ⟨q, r, hreduce, -⟩ := reduce_of_ne_zero (a.multiply b) (m := Config.MOD) (by decide)
  have hr : r.trim = p := by
    rw [BinPoly.fmul, hreduce] at hp
    exact Except.ok.inj hp
  have hdiv := reduce_identity hreduce
  refine ⟨p, hp, helem, q.val, ?_⟩
  rw [← hr, trim_val, ← multiply_val ha hb, hdiv, Nat.xor_comm, Nat.xor_xor_cancel_right]

/-- The congruence says which element a field product is. -/
theorem fmul_eq_ok_iff (ha : a.Pair) (hb : b.Pair) :
    a.fmul b = .ok p ↔ p.IsElement ∧ congMod p.val (clmul a.val b.val) := by
  obtain ⟨r, hr, hrelem, hrcong⟩ := fmul_congMod ha hb
  rw [hr]
  constructor
  · rintro ⟨⟩
    exact ⟨hrelem, hrcong⟩
  · rintro ⟨helem, hcong⟩
    have hval : r.val = p.val :=
      eq_of_congMod (isElement_val_lt hrelem) (isElement_val_lt helem) (congMod_trans hrcong (congMod_symm hcong))
    rw [isElement_ext hrelem helem hval]

end products

/-- Settles O52: a sum is the element of the XOR of the values, and an element is determined by its value. -/
theorem fieldAdditionLaws : Obligations.FieldAdditionLaws := by
  intro a b c ha hb _
  refine ⟨fadd_isElement ha hb, ?comm, ?assoc, ?self, ?zero⟩
  case comm => rw [fadd_eq, fadd_eq, Nat.xor_comm]
  case assoc => rw [fadd_eq (a.fadd b), fadd_eq a (b.fadd c), fadd_val, fadd_val, Nat.xor_assoc]
  case self =>
    rw [fadd_eq, Nat.xor_self]
    rfl
  case zero =>
    have hval : a.val ^^^ BinPoly.empty.val = a.val := Nat.xor_zero a.val
    rw [fadd_eq, hval, ← eq_fieldElement_val ha]

/-- Settles O53: the raw product commutes, and 1 and the zero element are found by their congruences. -/
theorem fieldMultiplicationLaws : Obligations.FieldMultiplicationLaws := by
  intro a b ha _
  have hpair := isElement_pair ha
  refine ⟨fmul_isElement a b, fmul_comm a b, ?one, ?zero⟩
  case one =>
    refine (fmul_eq_ok_iff hpair (by decide)).mpr ⟨ha, ?_⟩
    have hone : clmul a.val BinPoly.one.val = a.val := clmul_one a.val
    rw [hone]
    exact congMod_refl a.val
  case zero =>
    refine (fmul_eq_ok_iff hpair (by decide)).mpr ⟨isElement_empty, ?_⟩
    have hzero : clmul a.val BinPoly.empty.val = BinPoly.empty.val := clmul_zero_right a.val
    rw [hzero]
    exact congMod_refl _

/-- Settles O54: the sum of the products is congruent to the sum of the carry-less products, and `clmul` distributes. -/
theorem fieldMultiplicationDistributes : Obligations.FieldMultiplicationDistributes := by
  intro a b c p q ha hb hc hp hq
  have hpair := isElement_pair ha
  obtain ⟨hpelem, hpcong⟩ := (fmul_eq_ok_iff hpair (isElement_pair hb)).mp hp
  obtain ⟨hqelem, hqcong⟩ := (fmul_eq_ok_iff hpair (isElement_pair hc)).mp hq
  refine (fmul_eq_ok_iff hpair (isElement_pair (fadd_isElement hb hc))).mpr ⟨fadd_isElement hpelem hqelem, ?_⟩
  rw [fadd_val, fadd_val, clmul_xor_right]
  exact congMod_xor hpcong hqcong

/-- Settles O55: `a * q` is congruent to `a * (b * c) = (a * b) * c`, and that to `p * c`. -/
theorem fieldMultiplicationIsAssociative : Obligations.FieldMultiplicationIsAssociative := by
  intro a b c p q ha hb hc hp hq
  obtain ⟨hpelem, hpcong⟩ := (fmul_eq_ok_iff (isElement_pair ha) (isElement_pair hb)).mp hp
  obtain ⟨hqelem, hqcong⟩ := (fmul_eq_ok_iff (isElement_pair hb) (isElement_pair hc)).mp hq
  obtain ⟨r, hr, hrelem, hrcong⟩ := fmul_congMod (isElement_pair ha) (isElement_pair hqelem)
  rw [hr, fmul_eq_ok_iff (isElement_pair hpelem) (isElement_pair hc)]
  have hassoc : congMod (clmul a.val q.val) (clmul p.val c.val) := by
    have haq := congMod_clmul_left a.val hqcong
    rw [← clmul_assoc] at haq
    exact congMod_trans haq (congMod_clmul_right c.val (congMod_symm hpcong))
  exact ⟨hrelem, congMod_trans hrcong hassoc⟩

end Sys2Proof

end

/-! The commands of the field (R140 to R142): the result of each success; the errors are those of `errorOf`. -/
section

namespace Sys2Proof.Machine

section successes

variable {s : State}

theorem exec_fnew_of_fits (hA : s.operandA.Fits 8) :
    exec .fnew s = .next (s.completedFor (fieldElement s.operandA.val) .empty 0) := by
  have hwf : s.operandA.wf = true := (wf_iff_fits _).mpr ⟨hA.1.trans (by decide), hA.2⟩
  have hconstruct : s.operandA.construct = .ok (fieldElement s.operandA.val) :=
    (if_neg (Nat.not_lt.mpr hA.1)).trans (congrArg Except.ok (trim_eq _))
  simp [exec, execFnew, hconstruct, hwf, success_eq_completedFor]

theorem exec_fadd_of_elements (hA : s.operandA.IsElement) (hB : s.operandB.IsElement) :
    exec .fadd s = .next (s.completedFor (s.operandA.fadd s.operandB) .empty 0) := by
  have hcanonA := (isElement_iff_canon8 _).mp hA
  have hcanonB := (isElement_iff_canon8 _).mp hB
  simp [exec, execFadd, hcanonA, hcanonB, success_eq_completedFor]

theorem exec_fmul_of_elements (hA : s.operandA.IsElement) (hB : s.operandB.IsElement) {p : BinPoly}
    (h : s.operandA.fmul s.operandB = .ok p) : exec .fmul s = .next (s.completedFor p .empty 0) := by
  have hcanonA := (isElement_iff_canon8 _).mp hA
  have hcanonB := (isElement_iff_canon8 _).mp hB
  simp [exec, execFmul, hcanonA, hcanonB, h, success_eq_completedFor]

end successes

/-- Both commands check their two operands for being elements (R73, R178). -/
theorem exec_of_notElement {i : Instr} (hi : i ∈ [.fadd, .fmul]) {s : State}
    (h : ¬ s.operandA.IsElement ∨ ¬ s.operandB.IsElement) : exec i s = .next (s.failedWith 2) :=
  exec_of_error (c := .invalidOperand)
    ((errorOf_eq_invalidOperand_iff i s).mpr (.inr (.inr (.inr (.inl ⟨hi, h⟩)))))

/-- Settles O26: at most 8 coefficients are a value below 256; the check of the length comes first in `errorOf`. -/
theorem fnewConstructsAnElement : Obligations.FnewConstructsAnElement := by
  refine ⟨rfl, fun s => ⟨fun hA => ?_, fun hlong => ?_, fun hlen hpair => ?_⟩⟩
  · obtain ⟨hlen, hpair⟩ := hA
    exact ⟨hpair.trans_le (Nat.pow_le_pow_right (n := 2) (by decide) hlen), exec_fnew_of_fits ⟨hlen, hpair⟩⟩
  · exact exec_of_error ((errorOf_eq_invalidLength_iff _ s).mpr ⟨rfl, hlong⟩)
  · exact exec_of_error (c := .invalidOperand) ((if_neg (Nat.not_lt.mpr hlen)).trans (if_pos hpair))

/-- Settles O27: on elements FADD completes with `fadd`, the element of the XOR. -/
theorem faddXorsElements : Obligations.FaddXorsElements := by
  refine ⟨rfl, fun s => ⟨fun v w hv hw hA hB => ?_, exec_of_notElement (by simp)⟩⟩
  refine ⟨Nat.xor_lt_two_pow (n := 8) hv hw, ?_⟩
  rw [exec_fadd_of_elements ⟨v, hv, hA⟩ ⟨w, hw, hB⟩, fadd_eq, hA, hB]
  rfl

/-- Settles O28: on elements FMUL completes with `fmul`, and `eq_of_congMod` leaves no second element. -/
theorem fmulReducesTheProduct : Obligations.FmulReducesTheProduct := by
  refine ⟨rfl, fun s => ⟨fun v w hv hw hA hB => ?_, exec_of_notElement (by simp)⟩⟩
  have hAelem : s.operandA.IsElement := ⟨v, hv, hA⟩
  have hBelem : s.operandB.IsElement := ⟨w, hw, hB⟩
  obtain ⟨p, hp, ⟨u, hu, rfl⟩, hcong⟩ := fmul_congMod (isElement_pair hAelem) (isElement_pair hBelem)
  rw [hA, hB] at hcong
  exact ⟨u, hu, exec_fmul_of_elements hAelem hBelem hp, hcong, fun u' hu' h =>
    eq_of_congMod hu' hu (congMod_trans h (congMod_symm hcong))⟩

end Sys2Proof.Machine

end

/-! The steps of the engine (R152, R155, R156): a step divides `r_prev` by `r_cur`, and goes on with a shorter remainder or
answers DONE on none. -/
section

namespace Sys2Proof.Machine

/-- The state a step of the engine goes on in, after a division with quotient `q` and remainder `r` (R152, step 4). -/
def Engine.next (e : Engine) (q r : BinPoly) : Engine :=
  { rPrev := e.rCur, rCur := r, sPrev := e.sCur, sCur := e.sPrev.add (q.multiply e.sCur), n := e.n + 1 }

section steps

variable {e e' : Engine}

/-- Where `r_cur` is nonzero, the lengths of the division decide what a step answers. -/
theorem engineStep_of_ne_zero (hne : e.rCur.val ≠ 0) :
    ∃ q r, e.rPrev.reduce e.rCur = .ok (q, r) ∧ DivisionLengths e.rPrev e.rCur q r ∧
      ((r.val = 0 ∧ e.step = .ok (.done e.sCur e.steps)) ∨ (r.val ≠ 0 ∧ e.step = .ok (.cont (e.next q r)))) := by
  obtain ⟨q, r, hreduce, hlen⟩ := reduce_of_ne_zero e.rPrev hne
  obtain ⟨hzero, -⟩ | ⟨-, q', r', hreduce', hstep⟩ := engineStep_cases e
  · exact absurd hzero hne
  · cases hreduce.symm.trans hreduce'
    exact ⟨q, r, hreduce, hlen, hstep⟩

theorem rCur_ne_zero_of_step {o : EngineOut} (h : e.step = .ok o) : e.rCur.val ≠ 0 := by
  obtain ⟨-, herror⟩ | ⟨hne, -⟩ := engineStep_cases e
  · cases herror.symm.trans h
  · exact hne

/-- A step that goes on has divided with a nonzero remainder. -/
theorem engineStep_cont (h : e.step = .ok (.cont e')) :
    ∃ q r, e.rPrev.reduce e.rCur = .ok (q, r) ∧ DivisionLengths e.rPrev e.rCur q r ∧ r.val ≠ 0 ∧ e' = e.next q r := by
  obtain ⟨q, r, hreduce, hlen, ⟨-, hdone⟩ | ⟨hr, hcont⟩⟩ := engineStep_of_ne_zero (rCur_ne_zero_of_step h)
  · cases hdone.symm.trans h
  · cases hcont.symm.trans h
    exact ⟨q, r, hreduce, hlen, hr, rfl⟩

/-- A step that answers DONE has divided without remainder. -/
theorem engineStep_done {u : BinPoly} {n : Nat} (h : e.step = .ok (.done u n)) :
    ∃ q r, e.rPrev.reduce e.rCur = .ok (q, r) ∧ r.val = 0 := by
  obtain ⟨q, r, hreduce, -, ⟨hr, -⟩ | ⟨-, hcont⟩⟩ := engineStep_of_ne_zero (rCur_ne_zero_of_step h)
  · exact ⟨q, r, hreduce, hr⟩
  · cases hcont.symm.trans h

theorem engineRun_error {c : ErrCode} (h : e.step = .error c) (fuel : Nat) : Engine.run (fuel + 1) e = .error c := by
  simp [Engine.run, h]

/-- What every step that goes on keeps, a run keeps. -/
theorem engineRun_keeps {P : Engine → Prop} (hstep : ∀ e e', P e → e.step = .ok (.cont e') → P e') {fuel : Nat}
    (he : P e) (h : Engine.run fuel e = .ok e') : P e' := by
  induction fuel generalizing e with
  | zero =>
    cases h
    exact he
  | succ fuel ih =>
    obtain ⟨-, herror⟩ | ⟨-, q, r, -, ⟨-, hdone⟩ | ⟨-, hcont⟩⟩ := engineStep_cases e
    · cases (engineRun_error herror fuel).symm.trans h
    · rw [engineRun_done hdone] at h
      cases h
      exact he
    · rw [engineRun_cont hcont] at h
      exact ih (hstep _ _ he hcont) h

end steps

/-- Settles O57: the next `r_cur` is a nonzero remainder of a division by the present one. -/
theorem engineDegreeFalls : Obligations.EngineDegreeFalls := by
  intro e e' hne h
  obtain ⟨q, r, -, hlen, hr, rfl⟩ := engineStep_cont h
  exact ⟨hr, ((trimmedLen_lt_iff hne _).mp hlen.remainder_lt).resolve_left hr, rfl, rfl⟩

/-- Settles O58, by induction on the fuel: each step that goes on takes one of it and lowers the degree of `r_cur`. -/
theorem engineReachesDone : Obligations.EngineReachesDone := by
  intro e fuel hne hfuel
  induction fuel using Nat.strong_induction_on generalizing e with
  | _ fuel ih =>
    obtain ⟨q, r, -, -, ⟨-, hdone⟩ | ⟨-, hcont⟩⟩ := engineStep_of_ne_zero hne
    · exact ⟨e, e.sCur, engineRun_done hdone fuel, hdone, rfl, Nat.le_add_right _ _⟩
    · obtain ⟨hne', hlt, -, hcount⟩ := engineDegreeFalls e _ hne hcont
      obtain ⟨fuel, rfl⟩ := Nat.exists_eq_succ_of_ne_zero (n := fuel) (by omega)
      obtain ⟨e', u, hrun, hdone, hu, hn⟩ := ih fuel (Nat.lt_succ_self _) (e.next q r) hne' (by omega)
      exact ⟨e', u, (engineRun_cont hcont fuel).trans hrun, hdone, hu, by omega⟩

end Sys2Proof.Machine

end

/-! The Bezout identity (R156, invariant 1): the coefficients take the same combination of their predecessors as the
remainders do. -/
section

namespace Sys2Proof.Machine

theorem trimmed_pair {p : BinPoly} (h : p.Trimmed) : p.Pair := by
  rw [pair_iff_trimmedLen_le, ← (trimmed_iff p).mp h]

theorem bezout_init (a : BinPoly) : Engine.Bezout a (Engine.init a) where
  sPrev_pair := (by decide : BinPoly.one.Pair)
  sCur_pair := (by decide : BinPoly.empty.Pair)
  rCur_nonzero := (by decide : Config.MOD.val ≠ 0)
  prev := by
    have hone : clmul BinPoly.one.val a.val = a.val := (clmul_comm _ _).trans (clmul_one a.val)
    rw [Engine.init, hone]
    exact congMod_refl a.val
  cur := by
    have hzero : clmul BinPoly.empty.val a.val = 0 := clmul_eq_zero (.inl rfl)
    exact ⟨1, by rw [Engine.init, hzero, Nat.zero_xor, clmul_comm, clmul_one]⟩

/-- With `r = r_prev + q * r_cur`, the coefficient `s_prev + q * s_cur` times `a` is congruent to `r`. -/
theorem bezout_next {a : BinPoly} {e : Engine} (he : e.Bezout a) {q r : BinPoly}
    (hreduce : e.rPrev.reduce e.rCur = .ok (q, r)) (hq : q.Pair) (hr : r.val ≠ 0) : (e.next q r).Bezout a where
  sPrev_pair := he.sCur_pair
  sCur_pair := add_pair he.sPrev_pair (multiply_pair hq he.sCur_pair)
  rCur_nonzero := hr
  prev := he.cur
  cur := by
    have hcoefficient : clmul (e.next q r).sCur.val a.val =
        clmul e.sPrev.val a.val ^^^ clmul q.val (clmul e.sCur.val a.val) := by
      rw [Engine.next, add_val, multiply_val hq he.sCur_pair, clmul_xor_left, clmul_assoc]
    have hremainder : r.val = e.rPrev.val ^^^ clmul q.val e.rCur.val := by
      rw [reduce_identity hreduce, Nat.xor_comm, Nat.xor_xor_cancel_left]
    have hsum := congMod_xor he.prev (congMod_clmul_left q.val he.cur)
    rwa [← hcoefficient, ← hremainder] at hsum

theorem bezout_cont {a : BinPoly} (e e' : Engine) (he : e.Bezout a) (h : e.step = .ok (.cont e')) : e'.Bezout a := by
  obtain ⟨q, r, hreduce, hlen, hr, rfl⟩ := engineStep_cont h
  exact bezout_next he hreduce (trimmed_pair hlen.quotient_trimmed) hr

/-- Settles O59: `bezout_init` at `E0(a)`, and `bezout_cont` for each step. -/
theorem engineKeepsTheBezoutIdentity : Obligations.EngineKeepsTheBezoutIdentity := fun a =>
  ⟨bezout_init a, bezout_cont⟩

end Sys2Proof.Machine

end

/-! The last remainder (R153): a common divisor of the remainders divides MOD, which is irreducible, so at DONE `r_cur` is
1 and the Bezout identity reads `s_cur * a ≡ 1`. -/
section

namespace Sys2Proof

/-- `x` is a carry-less multiple of `d`. -/
def CarrylessDvd (d x : Nat) : Prop := ∃ y, x = clmul d y

theorem carrylessDvd_refl (d : Nat) : CarrylessDvd d d := ⟨1, (clmul_one d).symm⟩

theorem carrylessDvd_xor {d x y : Nat} (hx : CarrylessDvd d x) (hy : CarrylessDvd d y) : CarrylessDvd d (x ^^^ y) := by
  obtain ⟨u, rfl⟩ := hx
  obtain ⟨w, rfl⟩ := hy
  exact ⟨u ^^^ w, (clmul_xor_right d u w).symm⟩

theorem carrylessDvd_clmul {d x : Nat} (hx : CarrylessDvd d x) (q : Nat) : CarrylessDvd d (clmul q x) := by
  obtain ⟨u, rfl⟩ := hx
  exact ⟨clmul u q, by rw [clmul_comm, clmul_assoc]⟩

/-- What divides the divisor and the remainder of a division divides the dividend. -/
theorem carrylessDvd_dividend {d : Nat} {p m q r : BinPoly} (h : p.reduce m = .ok (q, r))
    (hm : CarrylessDvd d m.val) (hr : CarrylessDvd d r.val) : CarrylessDvd d p.val :=
  reduce_identity h ▸ carrylessDvd_xor (carrylessDvd_clmul hm q.val) hr

theorem eq_one_of_carrylessDvd_modulus {d : Nat} (h : CarrylessDvd d Config.MOD.val) (hd : d ≠ Config.MOD.val) :
    d = 1 := by
  obtain ⟨y, hy⟩ := h
  obtain ⟨-, -, hirreducible⟩ := modulusIsIrreducible
  refine (hirreducible d y hy.symm).resolve_right fun hone => hd ?_
  rw [hy, hone, clmul_one]

/-- Inverses modulo MOD on both sides of `u` are congruent. -/
theorem congMod_of_inverses {x u y : Nat} (hx : congMod (clmul x u) 1) (hy : congMod (clmul u y) 1) : congMod x y := by
  have hleft : congMod (clmul x (clmul u y)) x := by
    simpa only [clmul_one] using congMod_clmul_left x hy
  have hright : congMod (clmul x (clmul u y)) y := by
    rw [← clmul_assoc, clmul_comm]
    simpa only [clmul_one] using congMod_clmul_left y hx
  exact congMod_trans (congMod_symm hleft) hright

namespace Machine

/-- The common divisors of the two remainders are divisors of MOD. -/
def Engine.DivisorsDivideModulus (e : Engine) : Prop :=
  ∀ d, CarrylessDvd d e.rPrev.val → CarrylessDvd d e.rCur.val → CarrylessDvd d Config.MOD.val

theorem divisorsDivideModulus_init (a : BinPoly) : (Engine.init a).DivisorsDivideModulus := fun _ _ hcur => hcur

theorem divisorsDivideModulus_cont (e e' : Engine) (he : e.DivisorsDivideModulus) (h : e.step = .ok (.cont e')) :
    e'.DivisorsDivideModulus := by
  obtain ⟨q, r, hreduce, -, -, rfl⟩ := engineStep_cont h
  exact fun d hcur hr => he d (carrylessDvd_dividend hreduce hcur hr) hcur

/-- At DONE `r_cur` divides `r_prev`, so it divides MOD. -/
theorem rCur_eq_one_of_done {e : Engine} (he : e.InRun) (hdiv : e.DivisorsDivideModulus) {u : BinPoly} {n : Nat}
    (h : e.step = .ok (.done u n)) : e.rCur.val = 1 := by
  obtain ⟨q, r, hreduce, hr⟩ := engineStep_done h
  have hcur := carrylessDvd_refl e.rCur.val
  have hprev : CarrylessDvd e.rCur.val e.rPrev.val :=
    carrylessDvd_dividend hreduce hcur ⟨0, by rw [hr, clmul_zero_right]⟩
  refine eq_one_of_carrylessDvd_modulus (hdiv _ hprev hcur) fun hmod => ?_
  have hlen : trimmedLen e.rCur.val = 9 := by rw [hmod]; decide
  have hcounted := he.counted
  have hroom := he.count_room
  omega

/-- The run on a nonzero element ends in a state whose result is its inverse modulo MOD. -/
theorem runOn_inverts {a : BinPoly} (ha : a.IsElement) (hne : a.val ≠ 0) :
    ∃ e, Engine.runOn a = .ok e ∧ e.InRun ∧ congMod (clmul a.val e.result.val) 1 := by
  obtain ⟨e, hrun, he⟩ := runOn_inRun ha hne
  obtain ⟨e', u, hrun', hdone, -⟩ := engineReachesDone (Engine.init a) _ (bezout_init a).rCur_nonzero le_rfl
  cases hrun.symm.trans hrun'
  have hbezout : e.Bezout a := engineRun_keeps bezout_cont (bezout_init a) hrun
  have hdiv : e.DivisorsDivideModulus :=
    engineRun_keeps divisorsDivideModulus_cont (divisorsDivideModulus_init a) hrun
  refine ⟨e, hrun, he, ?_⟩
  rw [Engine.result, trim_val, clmul_comm, ← rCur_eq_one_of_done he hdiv hdone]
  exact hbezout.cur

/-- Settles O56: the result and the element are inverse to each other, so the inverse of the result is the element. -/
theorem engineResultIsTheInverse : Obligations.EngineResultIsTheInverse := by
  intro a ha hne
  obtain ⟨e, hrun, he, hinverse⟩ := runOn_inverts ha hne
  obtain ⟨hresult, hresultne⟩ := inRun_result he
  obtain ⟨e', hrun', he', hinverse'⟩ := runOn_inverts hresult hresultne
  obtain ⟨hresult', -⟩ := inRun_result he'
  refine ⟨e, e', hrun, hresult, ?product, hrun', ?involution⟩
  case product =>
    exact (fmul_eq_ok_iff (isElement_pair ha) (isElement_pair hresult)).mpr
      ⟨⟨1, by decide, rfl⟩, congMod_symm hinverse⟩
  case involution =>
    refine isElement_ext hresult' ha ?_
    exact eq_of_congMod (isElement_val_lt hresult') (isElement_val_lt ha)
      (congMod_symm (congMod_of_inverses hinverse hinverse'))

end Machine

end Sys2Proof

end

/-! Internal widths (R157): what a step of the run forms is no longer than the room `Engine.InRun` leaves. -/
section

namespace Sys2Proof.Machine

/-- Every polynomial the engine holds in `e` or forms in the step from it fits 9 coefficients. -/
def Engine.FitsNine (e : Engine) : Prop :=
  e.rPrev.Fits 9 ∧ e.rCur.Fits 9 ∧ e.sPrev.Fits 9 ∧ e.sCur.Fits 9 ∧
    ∃ q r, e.rPrev.reduce e.rCur = .ok (q, r) ∧ q.Fits 9 ∧ r.Fits 9 ∧ (q.multiply e.sCur).Fits 9 ∧
      (e.sPrev.add (q.multiply e.sCur)).Fits 9

/-- The first step divides an element by MOD, and multiplies by the empty coefficient. -/
theorem fitsNine_init {a : BinPoly} (ha : a.IsElement) : (Engine.init a).FitsNine := by
  obtain ⟨⟨-, hpair⟩, hlen, hcanon⟩ := (canon8_iff a).mp ((isElement_iff_canon8 a).mp ha)
  have hfits : a.Fits 9 := ⟨Nat.le_succ_of_le hlen, hpair⟩
  have hreduce : a.reduce Config.MOD = .ok (.empty, a) := reduce_of_shorter (Nat.lt_succ_of_le (hcanon ▸ hlen))
  have hone : BinPoly.one.Fits 9 := by decide
  have hcoefficient : (Engine.init a).sPrev.add (BinPoly.empty.multiply (Engine.init a).sCur) = .one := by
    rw [Engine.init, BinPoly.multiply_empty, BinPoly.add_empty]
  exact ⟨hfits, (by decide : Config.MOD.Fits 9), hone, empty_fits 9, .empty, a, hreduce, empty_fits 9, hfits,
    empty_fits 9, hcoefficient ▸ hone⟩

/-- In the run a quotient is as long as the two remainders leave it, and the product stays below their lengths' room. -/
theorem fitsNine_of_inRun {e : Engine} (he : e.InRun) : e.FitsNine := by
  obtain ⟨hrPrev, hrCur, hsPrev, hsCur, -⟩ := inRun_sized he
  obtain ⟨q, r, hreduce, hlen, -⟩ := engineStep_of_ne_zero ((trimmedLen_pos_iff _).mp he.rCur_pos)
  have hproduct : (q.multiply e.sCur).Fits 9 := by
    refine ⟨?_, multiply_pair (trimmed_pair hlen.quotient_trimmed) he.sCur_pair⟩
    have hqlen := hlen.quotient_len
    have hpos := he.rCur_pos
    have hroom := he.sCur_room
    rw [multiply_len]
    split <;> omega
  exact ⟨hrPrev, hrCur, hsPrev, hsCur, q, r, hreduce, quotient_fits hrPrev hlen, remainder_fits hrPrev hlen, hproduct,
    add_fits hsPrev hproduct⟩

/-- Settles O60: the engine is in its initial state, or past its first step in a state of the run. -/
theorem engineFitsNineCoefficients : Obligations.EngineFitsNineCoefficients := by
  intro v k e hpos hlt hrun
  have ha : (fieldElement v).IsElement := ⟨v, hlt, rfl⟩
  have hne : (fieldElement v).val ≠ 0 := hpos.ne'
  cases k with
  | zero =>
    cases hrun
    exact fitsNine_init ha
  | succ k =>
    rw [engineRun_cont (engineStep_init ((trimmedLen_le_iff v 8).mpr hlt) hne)] at hrun
    obtain ⟨e', hrun', he'⟩ := inRun_run (inRun_second ha hne) k
    cases hrun.symm.trans hrun'
    exact fitsNine_of_inRun he'

end Sys2Proof.Machine

end

/-! The command FINV (R160) and its ITER (R155). -/
section

namespace Sys2Proof.Machine

/-- FINV of a nonzero element completes with the engine's result and count. -/
theorem exec_finv_of_element {s : State} {v : Nat} (hpos : 0 < v) (hlt : v < 256) (hA : s.operandA = fieldElement v) :
    ∃ e : Engine, e.InRun ∧ congMod (clmul v e.result.val) 1 ∧ stepsOf v = e.steps ∧
      exec .finv s = .next { s.completedFor e.result .empty e.steps with engine := e } := by
  have ha : (fieldElement v).IsElement := ⟨v, hlt, rfl⟩
  obtain ⟨e, hrun, he, hinverse⟩ := runOn_inverts ha hpos.ne'
  have hcanon := (isElement_iff_canon8 _).mp ha
  have hzero : (fieldElement v).isZero = false := (isZero_eq_false _).mpr hpos.ne'
  refine ⟨e, he, hinverse, by rw [stepsOf, hrun], ?_⟩
  simp only [exec, execFinv, hA, hcanon, hzero, hrun, success_eq_completedFor]
  rfl

/-- Settles O29: the run gives the inverse and the count, `errorOf` the two errors. -/
theorem finvInvertsOrReportsNoInverse : Obligations.FinvInvertsOrReportsNoInverse := by
  refine ⟨rfl, fun s => ⟨fun v hpos hlt hA => ?_, fun hempty => ?_, fun hnot => ?_⟩⟩
  · obtain ⟨e, he, hinverse, hsteps, hexec⟩ := exec_finv_of_element hpos hlt hA
    obtain ⟨hresult, hne⟩ := inRun_result he
    obtain ⟨h2, h9⟩ := inRun_steps he
    refine ⟨e.result.val, e.steps, e, Nat.pos_of_ne_zero hne, isElement_val_lt hresult, hsteps.symm, h2, h9, ?_,
      hinverse⟩
    rw [← eq_fieldElement_val hresult, hexec]
  · exact exec_of_error ((errorOf_eq_noInverse_iff _ s).mpr ⟨rfl, hempty⟩)
  · exact exec_of_error (c := .invalidOperand)
      ((errorOf_eq_invalidOperand_iff _ s).mpr (.inr (.inr (.inr (.inr ⟨rfl, hnot⟩)))))

/-- The values of the nonzero elements whose inversion takes `n` steps. -/
def valuesOfSteps (n : Nat) : List Nat := (List.range 256).filter fun v => v ≠ 0 ∧ stepsOf v = n

theorem mem_valuesOfSteps_iff {v : Nat} (n : Nat) (hpos : 0 < v) (hlt : v < 256) :
    v ∈ valuesOfSteps n ↔ stepsOf v = n := by
  simp [valuesOfSteps, hlt, hpos.ne']

/-- The table of R155, by running the engine on all 255 elements as the spec does. -/
theorem valuesOfSteps_table : valuesOfSteps 2 = [1] ∧ valuesOfSteps 9 = [0xC4, 0xDA] ∧
    ∀ nk ∈ [(2, 1), (3, 10), (4, 44), (5, 78), (6, 68), (7, 34), (8, 18), (9, 2)],
      (valuesOfSteps nk.1).length = nk.2 := by
  decide

/-- Settles O30: ITER holds the count without loss, and the table says which elements have which count. -/
theorem finvIterationCounts : Obligations.FinvIterationCounts := by
  obtain ⟨htwo, hnine, hcounts⟩ := valuesOfSteps_table
  refine ⟨fun s v hpos hlt hA => ?_, hcounts⟩
  obtain ⟨e, he, -, hsteps, hexec⟩ := exec_finv_of_element hpos hlt hA
  obtain ⟨-, h9⟩ := inRun_steps he
  have hiter : (BitVec.ofNat 4 e.steps).toNat = stepsOf v := by
    rw [hsteps, BitVec.toNat_ofNat, Nat.mod_eq_of_lt (h9.trans_lt (by decide))]
  have hcount (w : BitVec 4) : BitVec.ofNat 4 e.steps = w ↔ v ∈ valuesOfSteps w.toNat := by
    rw [mem_valuesOfSteps_iff _ hpos hlt, ← hiter, BitVec.toNat_inj]
  refine ⟨_, hexec, hiter, (hcount 2).trans ?_, (hcount 9).trans ?_⟩
  · exact htwo ▸ List.mem_singleton
  · exact hnine ▸ List.mem_pair

end Sys2Proof.Machine

end

/-! Precision of errors (R179): what a command that ends in an error leaves. -/
section

namespace Sys2Proof.Machine

/-- Settles O34: every success clears ERR, so the command ended in the error tail, whose code is one of 1 to 6. -/
theorem errorsArePrecise : Obligations.ErrorsArePrecise := by
  intro i s t h herr
  cases exec_completion h with
  | error c =>
    obtain ⟨hpos, hmax⟩ := code_range c
    exact ⟨c.code, hpos, hmax, raiseError_eq c s⟩
  | single | division | inverse => simp at herr

end Sys2Proof.Machine

end

/-! Reset (R200, R202) and liveness (R207): a reset step leaves the reset state, and from a command in flight every step
either ends it or uses up one of the turns to come. -/
section

namespace Sys2Proof.Machine

theorem hostTurn_reset {s : State} (h : s.currentStmt = some .reset) :
    hostTurn s = resetEvent (s.setHost s.host.advance) := by
  simp [hostTurn, h]

theorem toWord_statusReset : Status.reset.toWord = 0x00000020#32 := by decide

/-- Settles O8: either form of the reset event is `resetEvent`, after the host has gone on where the event was its own. -/
theorem resetEventDiscardsTheCommand : Obligations.ResetEventDiscardsTheCommand := by
  rintro s (hturn | ⟨hturn, hstmt⟩)
  · exact ⟨_, step_of_reset hturn, rfl, rfl, rfl, rfl, toWord_statusReset, rfl, rfl, fun _ => rfl, by simp [hturn]⟩
  · have hstep := step_of_host hturn
    rw [hostTurn_reset (s := s.popTurn) hstmt] at hstep
    exact ⟨_, hstep, rfl, rfl, rfl, rfl, toWord_statusReset, rfl, rfl, by simp [hturn], fun _ => rfl⟩

/-! What every step does to the turns to come and to the host's program -/

theorem hostWrite_host (idx : RegIndex) (d : Word) (s : State) : (hostWrite idx d s).host = s.host := by
  obtain ⟨-, h⟩ | ⟨-, h⟩ | ⟨-, -, h⟩ | ⟨-, -, h⟩ | ⟨-, h⟩ := hostWrite_cases idx d s
  all_goals simp [h]

/-- No statement of R82 rewrites the program. -/
theorem hostTurn_prog (s : State) : (hostTurn s).host.prog = s.host.prog := by
  cases hstmt : s.currentStmt with
  | none => rw [hostTurn_ended (.inr hstmt)]
  | some stmt =>
    cases stmt with
    | wr r v => simp [hostTurn_wr hstmt, hostWrite_host]
    | rd r => simp [hostTurn_rd hstmt]
    | label l => simp [hostTurn_label hstmt]
    | jbit n l =>
      rw [hostTurn_jbit hstmt]
      split <;> rfl
    | jmp l => simp [hostTurn_jmp hstmt]
    | halt => rw [hostTurn_ended (.inl hstmt)]
    | reset => simp [hostTurn_reset hstmt]

theorem completionStep_keeps_host_sched {s t : State} (h : completionStep s = .next t) :
    t.host = s.host ∧ t.sched = s.sched := by
  cases hb : s.status.busy with
  | true =>
    have frame := completionStep_frame hb h
    exact ⟨frame.host, frame.sched⟩
  | false =>
    cases (completionStep_idle hb).symm.trans h
    exact ⟨rfl, rfl⟩

theorem step_prog {s t : State} (h : step s = .next t) : t.host.prog = s.host.prog := by
  cases hturn : s.currentTurn with
  | core =>
    obtain ⟨hhost, -⟩ := completionStep_keeps_host_sched ((step_of_core hturn).symm.trans h)
    rw [hhost, popTurn_host]
  | host =>
    cases (step_of_host hturn).symm.trans h
    exact hostTurn_prog s.popTurn
  | reset =>
    cases (step_of_reset hturn).symm.trans h
    rfl

/-- Every step takes one turn from the turns to come, while there is one. -/
theorem step_sched {s t : State} (h : step s = .next t) : t.sched = s.sched.tail := by
  cases step_effect h with
  | completion _ ht => exact (completionStep_keeps_host_sched ht).2
  | reset | hostOnly | writeOpa | writeOpb | drop | accept => rfl

/-- A reset comes from the turns to come or from the host's program. -/
theorem not_resets {s : State} (hsched : Turn.reset ∉ s.sched) (hprog : HostStmt.reset ∉ s.host.prog) : ¬ s.resets := by
  rintro (hturn | ⟨-, hstmt⟩)
  · cases hs : s.sched with
    | nil =>
      rw [currentTurn_nil s hs] at hturn
      split at hturn <;> cases hturn
    | cons turn turns =>
      rw [currentTurn_cons s turn turns hs] at hturn
      simp [hs, hturn] at hsched
  · exact hprog (List.mem_of_getElem? hstmt)

/-! A command in flight -/

/-- The step from `u` to `t` ends the command in flight: by its completion (R27), or by a reset (R202). -/
structure EndsCommand (u t : State) : Prop where
  step : step u = .next t
  idle : t.status.busy = false
  cause : (u.completes ∧ completionStep u.popTurn = .next t) ∨ u.resets

/-- `k` steps lead from `s` to `u`, where the command in flight at `s` is in flight still; each of them has taken one of
the turns to come. -/
structure CommandInFlight (s : State) (k : Nat) (u : State) : Prop where
  run : Host.Core.run Sys2Proof.core k s = .next u
  busy : u.status.busy = true
  latch : u.latch = s.latch
  prog : u.host.prog = s.host.prog
  turns : k ≤ s.sched.length
  sched : u.sched = s.sched.drop k

/-- A step with a command in flight ends it or leaves it in flight: nothing is accepted while BUSY = 1 (R52). -/
theorem endsCommand_or_inFlight {s t : State} (hb : s.status.busy = true) (h : step s = .next t) :
    EndsCommand s t ∨ (t.status.busy = true ∧ t.latch = s.latch) := by
  cases step_effect h with
  | completion hc ht => exact .inl ⟨h, (completionStep_frame (s := s.popTurn) hb ht).busy, .inl ⟨hc, ht⟩⟩
  | reset host hr => exact .inl ⟨h, rfl, .inr hr⟩
  | hostOnly | writeOpa | writeOpb | drop => exact .inr ⟨hb, rfl⟩
  | accept host w hw hidle => simp [hb] at hidle

/-- Weak fairness in the model's form (log entry 5): with no turn to come, the core completes the command in flight. -/
theorem endsCommand_of_no_turns {s : State} (hb : s.status.busy = true) (hs : s.sched = []) : ∃ t, EndsCommand s t := by
  have hturn : s.currentTurn = .core := by simp [hs, hb]
  obtain ⟨t, ht, hidle, -⟩ := completionStep_busy_next (s := s.popTurn) hb
  exact ⟨t, (step_of_core hturn).trans ht, hidle, .inl ⟨⟨hturn, hb⟩, ht⟩⟩

theorem commandInFlight_zero {s : State} (hb : s.status.busy = true) : CommandInFlight s 0 s :=
  ⟨rfl, hb, rfl, rfl, Nat.zero_le _, rfl⟩

theorem run_succ_of_step {s t : State} (h : step s = .next t) (k : Nat) :
    Host.Core.run Sys2Proof.core (k + 1) s = Host.Core.run Sys2Proof.core k t := by
  have hcore : Sys2Proof.core.step s = .next t := h
  simp only [Host.Core.run, hcore]

theorem commandInFlight_succ {s t u : State} {k : Nat} (h : step s = .next t) (hlatch : t.latch = s.latch)
    (hs : s.sched ≠ []) (hu : CommandInFlight t k u) : CommandInFlight s (k + 1) u where
  run := (run_succ_of_step h k).trans hu.run
  busy := hu.busy
  latch := hu.latch.trans hlatch
  prog := hu.prog.trans (step_prog h)
  turns := by
    have hlength := hu.turns
    have hpos := List.length_pos_of_ne_nil hs
    rw [step_sched h, List.length_tail] at hlength
    omega
  sched := by rw [hu.sched, step_sched h, List.drop_tail]

/-- R207, by induction on the turns to come: each step with a command in flight ends it or takes a turn. -/
theorem commandInFlight_ends {s : State} (hb : s.status.busy = true) :
    ∃ k u t, CommandInFlight s k u ∧ EndsCommand u t := by
  induction hs : s.sched generalizing s with
  | nil =>
    obtain ⟨t, ht⟩ := endsCommand_of_no_turns hb hs
    exact ⟨0, s, t, commandInFlight_zero hb, ht⟩
  | cons turn turns ih =>
    obtain ⟨t, hstep⟩ := everyStepGoesOn s
    obtain hend | ⟨hbt, hlatch⟩ := endsCommand_or_inFlight hb hstep
    · exact ⟨0, s, t, commandInFlight_zero hb, hend⟩
    · have hturns : t.sched = turns := by rw [step_sched hstep, hs, List.tail_cons]
      obtain ⟨k, u, t', hu, hend⟩ := ih hbt hturns
      exact ⟨k + 1, u, t', commandInFlight_succ hstep hlatch (by simp [hs]) hu, hend⟩

theorem run_succ_of_run {s u : State} {k : Nat} (h : Host.Core.run Sys2Proof.core k s = .next u) :
    Host.Core.run Sys2Proof.core (k + 1) s = step u := by
  induction k generalizing s with
  | zero =>
    cases h
    obtain ⟨t, ht⟩ := everyStepGoesOn u
    exact (run_succ_of_step ht 0).trans ht.symm
  | succ k ih =>
    obtain ⟨t, ht⟩ := everyStepGoesOn s
    rw [run_succ_of_step ht] at h ⊢
    exact ih h

/-- Settles O43: the turns left at the step that ends the command are among those to come at its start, and the program is
the same, so without a reset in either that step is the completion. -/
theorem everyAcceptedCommandCompletesUnlessReset : Obligations.EveryAcceptedCommandCompletesUnlessReset := by
  intro s hb
  obtain ⟨k, u, t, hu, hend⟩ := commandInFlight_ends hb
  refine ⟨k, u, t, hu.turns, hu.run, hu.busy, hu.latch, (run_succ_of_run hu.run).trans hend.step, hend.step, hend.idle,
    hend.cause, fun hsched hprog => ?_⟩
  have hnr : ¬ u.resets := not_resets (hu.sched ▸ fun h => hsched (List.mem_of_mem_drop h)) (hu.prog ▸ hprog)
  obtain ⟨hc, -⟩ | hr := hend.cause
  · exact hc
  · exact absurd hr hnr

end Sys2Proof.Machine

end
